-- ==== Sys2Proof/Word.lean ====
section
/-! DEFINITION. The bit vectors of the block: containers, parameter ports and the request word. -/

namespace Sys2Proof

/-- A 64-bit container: the input `value`, the result and every working vector (R26). Bit 0 is the
least significant bit (R6). -/
abbrev Word := BitVec 64

/-- The contents of a width-parameter port or latch: 7 bits, unsigned (R5, R12, R21). -/
abbrev Width := BitVec 7

/-- A request word `{tot_bits[6:0], exp_bits[6:0], value[63:0]}` (R46). -/
abbrev RequestWord := BitVec 78

end Sys2Proof
end

