-- ==== Sys2Proof/Syntax.lean ====
section
/-! DEFINITION. The instructions: one constructor per row of the opcode table. -/

namespace Sys2Proof

/-- `CONVERT value, totBits, expBits` (R52, R61), the block's one operation (R48). The two widths are
integers, as in the source's call notation `convert(value, totBits, expBits)` (R9, R52): which of
them a request word can carry is `Instr.wf`. -/
inductive Instr where
  | convert (value : Word) (totBits expBits : Int)
  deriving DecidableEq, Repr

end Sys2Proof
end

