-- ==== Sys2Proof/WellFormed.lean ====
section
/-! DEFINITION. Which instructions a request word can carry. -/

namespace Sys2Proof

/-- A width fits a 7-bit unsigned port: 0 to 127 (R21, R46). -/
def fitsPort (n : Int) : Bool := decide (0 ≤ n) && decide (n ≤ 127)

/-- Both widths can be presented. R46: a software `int` that is negative or above 127 cannot be written
on a 7-bit port. Illegal widths within 0 to 127 ARE well formed: such a request faults when it
runs (R49). -/
def Instr.wf : Instr → Bool
  | .convert _ totBits expBits => fitsPort totBits && fitsPort expBits

end Sys2Proof
end

