-- ==== Sys2Proof/Decode.lean ====
section
/-! DEFINITION. The decoder of request words, total, and after it the encoder. -/

namespace Sys2Proof

/-- Why a number is no request. Safe: nothing that the block can be given is rejected. -/
inductive DecodeReject where
  /-- The number has a bit above bit 77: a request is always 78 bits (R51). -/
  | longerThanRequest
  deriving DecidableEq, Repr

/-- `req[77:71]` (R46). -/
def totBitsField (req : RequestWord) : Width := req.extractLsb' 71 7

/-- `req[70:64]` (R46). -/
def expBitsField (req : RequestWord) : Width := req.extractLsb' 64 7

/-- `req[63:0]` (R46). -/
def valueField (req : RequestWord) : Word := req.extractLsb' 0 64

/-- The request a request word is: every 78-bit word is a CONVERT (R46, R50). -/
def decode (req : RequestWord) : Instr :=
  .convert (valueField req) (totBitsField req).toNat (expBitsField req).toNat

/-- The request a number is, bit 0 the least significant bit of `value`; a number of more than 78 bits
is rejected by name (R51). -/
def decodeNumber (w : Nat) : Except DecodeReject Instr :=
  if w < 2 ^ 78 then .ok (decode (BitVec.ofNat 78 w)) else .error .longerThanRequest

/-- The instruction the decoder reads from an opcode-table word of `nbits` bits, numbered as the table
numbers them; bits at and above `nbits` are 0. The block has no bytes (R29), so the word is the
request vector itself. Log 10. -/
def decodeTableWord (nbits w : Nat) : Option Instr :=
  match decodeNumber (w % 2 ^ nbits) with
  | .ok i => some i
  | .error _ => none

/-- The request word of an instruction, by the layout of R46. Only a well-formed instruction has one
(`Instr.wf`). -/
def encode : Instr → RequestWord
  | .convert value totBits expBits => BitVec.ofInt 7 totBits ++ BitVec.ofInt 7 expBits ++ value

end Sys2Proof
end

