-- ==== Sys2Proof/Config.lean ====
section
/-! DEFINITION. What the spec leaves open: constants with no body, so that no proof can see their values. -/

namespace Sys2Proof

/-- FREE VALUE `wide_align(M, fmb)`, the mantissa field of a NORMAL or SUBNORMAL result when
`fmb > 52` (R97, D12, U2): an `fmb`-bit value, a function of its two arguments and nothing else.
Log 7. -/
opaque Config.wideAlign (m : Word) (fmb : Nat) : BitVec fmb

/-- FREE VALUE `LATENCY` (R64, R133, D13), less one: how many edges pass between the acceptance edge
and the completing edge. It may depend on the operands; `n` is `State.freeCount`, so that two
equal requests need not take equally long. Log 3. -/
opaque Config.latency (n : Nat) (value : Word) (totBits expBits : Width) : Nat

/-- FREE VALUE: what `VALUE_R` holds after a reset event (R121, U13). Log 5. -/
opaque Config.resetValueR (n : Nat) : Word

/-- FREE VALUE: what `TOT_R` holds after a reset event (R121, U13). Log 5. -/
opaque Config.resetTotR (n : Nat) : Width

/-- FREE VALUE: what `EXP_R` holds after a reset event (R121, U13). Log 5. -/
opaque Config.resetExpR (n : Nat) : Width

end Sys2Proof
end

