-- ==== Sys2Proof/Machine/State.lean ====
section
/-! DEFINITION. The state of the block, the host's moves, the outcomes' reasons and the state after reset. -/

namespace Sys2Proof.Machine

/-- `STATUS` (R14). -/
inductive Status where
  /-- Out of reset, no request yet. -/
  | idle
  /-- A request with legal parameters is accepted and has not completed. -/
  | busy
  /-- The last accepted request completed; `RESULT` holds its value. -/
  | done
  /-- A request was presented with illegal parameters; left by reset only. -/
  | fault
  deriving DecidableEq, Repr

/-- `CAUSE` (R15, R108). The 2-bit value 3 is never produced and is omitted, as U15 allows (log 13). -/
inductive Cause where
  /-- 0: no fault recorded. -/
  | noFault
  /-- 1: `totBits` outside `[4, 64]` (R107). -/
  | invalidTotalWidth
  /-- 2: `totBits` legal and `expBits` outside `[2, totBits - 2]` (R107). -/
  | invalidExponentWidth
  deriving DecidableEq, Repr

/-- The levels of the input ports at one rising edge of `clk` (R21). -/
structure InPorts where
  rst : Bool
  start : Bool
  value : Word
  totBits : Width
  expBits : Width
  deriving DecidableEq, Repr

/-- What the host does next. The spec models the host only by these moves (R10); which of them come,
and in what order, is open (log 1). -/
inductive HostMove where
  /-- One rising edge of `clk` with the given port levels: a reset, a presented request, or neither. -/
  | edge (p : InPorts)
  /-- A request presented at one edge and waited for, with `start = 0` and `rst = 0`, until the converter
  has made its move (R125 steps 3 and 4; log 2). -/
  | request (req : RequestWord)
  deriving DecidableEq, Repr

/-- The state: the spec's tuple (R24) and the model's own three fields. -/
structure State where
  /-- `STATUS` (R14). -/
  status : Status
  /-- `CAUSE` (R15). -/
  cause : Cause
  /-- `RESULT` (R13). -/
  result : Word
  /-- `VALUE_R` (R12). -/
  valueR : Word
  /-- `TOT_R` (R12). -/
  totR : Width
  /-- `EXP_R` (R12). -/
  expR : Width
  /-- The model's own: edges still to pass before the completing edge of the request in progress (log 3). -/
  cyclesLeft : Nat
  /-- The model's own: the counter the free values are applied to (log 5). -/
  freeCount : Nat
  /-- The model's own: the host's coming moves, first one first (log 1). -/
  host : List HostMove
  deriving DecidableEq, Repr

/-- The reasons a step can end the run with a fault: none. The block's two faults (R107) are states it
stays in until reset (R111, R113), and a stuck request (R66) is too: both are next states. -/
inductive Fault where
  deriving DecidableEq, Repr

/-- The reasons a step can be refused. -/
inductive Refusal where
  /-- Raised by `exec` for an instruction that has no meaning yet; no arm raises it. Safe. -/
  | notModelled (mnemonic : String)
  /-- Raised by CONVERT when a width is negative or above 127: no port can carry it and the host must not
  present it (R46, U16). No step raises it, since a request word cannot hold such a width. Safe. -/
  | operandNotPresentable
  deriving DecidableEq, Repr

/-- The state right after reset (R23, R122). The spec leaves the three latches unspecified: 0 here is a
DESIGN CHOICE (log 4), as are 0 for the model's counters (logs 3, 5) and the empty list of host
moves (log 1). -/
def State.reset : State where
  status := .idle
  cause := .noFault
  result := 0
  valueR := 0
  totR := 0
  expR := 0
  cyclesLeft := 0
  freeCount := 0
  host := []

end Sys2Proof.Machine
end

