-- ==== Sys2Proof/Machine/Ops.lean ====
section
/-! DEFINITION. The shared operations: the bit-field cells, and each transition's writes to the state. -/

namespace Sys2Proof.Machine

/-! ## The bit-field cells (R53 to R56)

A field is named by its most significant bit `start` and its `width`. The cells are meant for
`1 ≤ width ≤ 64` and `width - 1 ≤ start ≤ 63`, which every call of the converter meets (R57); what
the definitions give outside that range stands for nothing (log 11). -/

/-- `ones(n)`: the `n` low bits set (R7). -/
def ones (n : Nat) : Word := BitVec.ofNat 64 (2 ^ n - 1)

/-- `GETFIELD(start, width, c)`: the field, right-aligned and zero-extended (R54). -/
def getField (start width : Nat) (c : Word) : Word :=
  (c >>> (start + 1 - width)) &&& ones width

/-- `SETBIT(pos, b, c)`: `c` with bit `pos` replaced by `b` (R55). -/
def setBit (pos : Nat) (b : Bool) (c : Word) : Word :=
  (c &&& ~~~(1#64 <<< pos)) ||| (if b then 1#64 <<< pos else 0#64)

/-- `SETFIELD(start, width, value, c)`: `c` with the field replaced by the `width` low bits of `value`
(R56). -/
def setField (start width : Nat) (value c : Word) : Word :=
  (c &&& ~~~(ones width <<< (start + 1 - width))) |||
    ((value &&& ones width) <<< (start + 1 - width))

/-! ## The host's moves -/

/-- Port levels with which the host does nothing: `rst = 0`, `start = 0` (R63). -/
def idlePorts : InPorts where
  rst := false
  start := false
  value := 0
  totBits := 0
  expBits := 0

/-- The host's next move, and the state with that move taken off the list. A host with no move left
drives `idlePorts`. -/
def nextMove (s : State) : HostMove × State :=
  match s.host with
  | [] => (.edge idlePorts, s)
  | mv :: rest => (mv, { s with host := rest })

/-! ## What each transition writes -/

/-- Acceptance of a request that passed its check (R63): the latches and `STATUS`; `RESULT` and `CAUSE`
stay. The number of edges to completion is drawn from the open `LATENCY` (log 3). -/
def accept (p : InPorts) (s : State) : State :=
  { s with
    status := .busy
    valueR := p.value
    totR := p.totBits
    expR := p.expBits
    cyclesLeft := Config.latency s.freeCount p.value p.totBits p.expBits
    freeCount := s.freeCount + 1 }

/-- Taking a fault (R111): `STATUS <- FAULT ; CAUSE <- cause`, and nothing else. There is no return
from it but reset (R113). -/
def raiseFault (c : Cause) (s : State) : State :=
  { s with status := .fault, cause := c }

/-- Completion (R64): `RESULT` and `STATUS`, both at one edge. -/
def publish (r : Word) (s : State) : State :=
  { s with status := .done, result := r, cyclesLeft := 0 }

/-- The reset event (R121): `STATUS <- IDLE ; CAUSE <- 0 ; RESULT <- 0`; the latches become unspecified,
so they take free values (log 5). -/
def resetEvent (s : State) : State :=
  { s with
    status := .idle
    cause := .noFault
    result := 0
    valueR := Config.resetValueR s.freeCount
    totR := Config.resetTotR s.freeCount
    expR := Config.resetExpR s.freeCount
    cyclesLeft := 0
    freeCount := s.freeCount + 1 }

end Sys2Proof.Machine
end

