-- ==== Sys2Proof/Machine/Operands.lean ====
section
/-! DEFINITION. The operands of a request: presenting them, checking them, and what is derived from them. -/

namespace Sys2Proof.Machine

/-- The port levels that present a request for one edge (R46, R125 step 3). -/
def presentPorts (value : Word) (totBits expBits : Int) : InPorts where
  rst := false
  start := true
  value := value
  totBits := BitVec.ofInt 7 totBits
  expBits := BitVec.ofInt 7 expBits

/-- Legal parameters (R40). -/
abbrev LegalParams (totBits expBits : Nat) : Prop :=
  4 ≤ totBits ∧ totBits ≤ 64 ∧ 2 ≤ expBits ∧ expBits ≤ totBits - 2

/-- Step 0, the parameter check, `totBits` first (R60, R107, R110): the cause of the fault, or
`noFault`. -/
def paramCheck (totBits expBits : Nat) : Cause :=
  if totBits < 4 ∨ totBits > 64 then .invalidTotalWidth
  else if expBits < 2 ∨ expBits > totBits - 2 then .invalidExponentWidth
  else .noFault

/-- `fmb = totBits - expBits - 1`, the number of mantissa bits (R41). -/
def fmb (totBits expBits : Nat) : Nat := totBits - expBits - 1

/-- `floatxBias = 2^(expBits-1) - 1` (R42). -/
def floatxBias (expBits : Nat) : Int := 2 ^ (expBits - 1) - 1

/-- `doubleBias = 1023` (R42). -/
def doubleBias : Int := 1023

/-- `EXP_ONES = 2^expBits - 1`, as an integer (R44). -/
def expOnes (expBits : Nat) : Int := 2 ^ expBits - 1

end Sys2Proof.Machine
end

