-- ==== Sys2Proof/Machine/Extract.lean ====
section
/-! DEFINITION. Steps 1 to 4 of CONVERT: the extractor and the special-value paths (42_extract_special.md). -/

namespace Sys2Proof.Machine

/-- The raw fields of a double: sign `S`, biased exponent `E`, mantissa `M`, each right-aligned (R73). -/
structure Fields where
  s : Word
  e : Word
  m : Word
  deriving DecidableEq, Repr

/-- Step 1, DECOMPOSE (R73). -/
def decompose (value : Word) : Fields where
  s := getField 63 1 value
  e := getField 62 11 value
  m := getField 51 52 value

/-- Step 2, SIGN: `S` into bit `totBits - 1`, unconditionally (R74). -/
def writeSign (totBits : Nat) (s r : Word) : Word := setBit (totBits - 1) (s.getLsbD 0) r

/-- The exponent field, bits `totBits - 2` down to `fmb`, replaced by the low bits of `x` (R57). -/
def writeExp (totBits expBits : Nat) (x r : Word) : Word := setField (totBits - 2) expBits x r

/-- Step 4, INFNAN: exponent field all ones (R76), and for a NaN the top mantissa bit (R77). -/
def infNan (totBits expBits : Nat) (m r : Word) : Word :=
  let r := writeExp totBits expBits (ones 64) r
  if m = 0 then r else setBit (totBits - expBits - 2) true r

end Sys2Proof.Machine
end

