-- ==== Sys2Proof/Machine/Subnormal.lean ====
section
/-! DEFINITION. Step 6 of CONVERT: normalization scan and subnormal demotion, as the source words it (44_subnormal.md). -/

namespace Sys2Proof.Machine

/-- The loop of SCAN (R89), with at most `fuel` tests of bit 52; `none` when none of them ends it. -/
def scanLoop : Nat → Word → Nat → Option (Word × Nat)
  | 0, _, _ => none
  | fuel + 1, m, shiftCount =>
    if m.getLsbD 52 then some (m, shiftCount) else scanLoop fuel (m <<< 1) (shiftCount + 1)

/-- SCAN (R89): the shifted `M` and `shiftCount`. A 52-bit `M` that is not 0 ends the loop within 53
tests; for `M = 0` it never ends and there is no result (R90; log 6). -/
def scan (m : Word) : Option (Word × Nat) := scanLoop 53 m 0

/-- The loop of DEMOTE (R94): one right shift and one increment of `bias` a round, until `bias = 0`. -/
def demoteLoop : Nat → Word → Int → Word × Int
  | 0, m, bias => (m, bias)
  | rounds + 1, m, bias => if bias = 0 then (m, bias) else demoteLoop rounds (m >>> 1) (bias + 1)

/-- DEMOTE (R94): bit 52 is ORed in, then `-bias` single-bit right shifts. -/
def demote (m : Word) (bias : Int) : Word × Int := demoteLoop (-bias).toNat (m ||| 1#64 <<< 52) bias

/-- The two-way mux after BIASADJ: BOUNDARY (R92) at `bias = 0`, else DEMOTE (R94). -/
def boundaryOrDemote (m : Word) (bias : Int) : Word × Int :=
  if bias = 0 then (m <<< 1, bias) else demote m bias

/-- MANTALIGN: `M >> (52 - fmb)` (R96), and in a wide configuration the open `wide_align` (R97). -/
def alignMantissa (m : Word) (fmb : Nat) : Word :=
  if fmb ≤ 52 then m >>> (52 - fmb) else (Config.wideAlign m fmb).setWidth 64

/-- The mantissa field, bits `fmb - 1` down to 0, replaced by the aligned `M` (R96, R97, R101). -/
def writeMantissa (totBits expBits : Nat) (m r : Word) : Word :=
  setField (totBits - expBits - 2) (fmb totBits expBits) (alignMantissa m (fmb totBits expBits)) r

/-- The SUBNORMAL path (R88): SCAN, BIASADJ (R91), BOUNDARY or DEMOTE, SUBEXP (R95), MANTALIGN. -/
def subnormalPath (totBits expBits : Nat) (m : Word) (bias : Int) (r : Word) : Option Word :=
  match scan m with
  | none => none
  | some (m1, shiftCount) =>
    let mb := boundaryOrDemote m1 (bias - shiftCount)
    some (writeMantissa totBits expBits mb.1 (writeExp totBits expBits (BitVec.ofInt 64 mb.2) r))

end Sys2Proof.Machine
end

