-- ==== Sys2Proof/Machine/NormalOverflow.lean ====
section
/-! DEFINITION. Steps 7 and 8 of CONVERT: the normal path and overflow (45_normal_overflow.md). -/

namespace Sys2Proof.Machine

/-- The NORMAL path: `bias0` into the exponent field (R100), the aligned `M` into the mantissa field
(R101). -/
def normalPath (totBits expBits : Nat) (m : Word) (bias : Int) (r : Word) : Word :=
  writeMantissa totBits expBits m (writeExp totBits expBits (BitVec.ofInt 64 bias) r)

/-- The OVERFLOW path: exponent field all ones, mantissa field left zero (R103). -/
def overflowPath (totBits expBits : Nat) (r : Word) : Word := writeExp totBits expBits (ones 64) r

end Sys2Proof.Machine
end

