-- ==== Sys2Proof/Machine/Rebias.lean ====
section
/-! DEFINITION. Step 5 of CONVERT, re-biasing, and the path select mux (43_rebias.md). -/

namespace Sys2Proof.Machine

/-- The three datapaths behind the mux (R84). -/
inductive Path where
  | subnormal
  | normal
  | overflow
  deriving DecidableEq, Repr

/-- Step 5, REBIAS: `bias0 = E - 1023 + floatxBias`, a signed integer, with `E` as stored (R81, R82). -/
def rebias (e : Word) (expBits : Nat) : Int := e.toNat - doubleBias + floatxBias expBits

/-- PATHSEL (R84). -/
def pathSel (bias : Int) (expBits : Nat) : Path :=
  if bias ≤ 0 then .subnormal else if bias < expOnes expBits then .normal else .overflow

end Sys2Proof.Machine
end

