-- ==== Sys2Proof/Machine/Convert.lean ====
section
/-! DEFINITION. CONVERT: the function, the transitions that carry it, the clock edge, and the instruction's meaning (41_convert.md). -/

namespace Sys2Proof.Machine

/-- Steps 1 to 9 of R61, for legal parameters: the packed result (R105), or `none` where step 6 gives
none (R90). The container starts at zero (R62). -/
def convertSteps (value : Word) (totBits expBits : Nat) : Option Word :=
  let f := decompose value
  let r := writeSign totBits f.s 0
  if f.e = 0 ∧ f.m = 0 then some r
  else if f.e = 0x7FF then some (infNan totBits expBits f.m r)
  else
    let bias := rebias f.e expBits
    match pathSel bias expBits with
    | .subnormal => subnormalPath totBits expBits f.m bias r
    | .normal => some (normalPath totBits expBits f.m bias r)
    | .overflow => some (overflowPath totBits expBits r)

/-- `convert(value, totBits, expBits)` (R9, R61): the 64-bit result, or `none` when the parameter check
fails or the request is in the hang set. -/
def convert (value : Word) (totBits expBits : Nat) : Option Word :=
  match paramCheck totBits expBits with
  | .noFault => convertSteps value totBits expBits
  | .invalidTotalWidth => none
  | .invalidExponentWidth => none

/-- The result of the request in the latches, if it has one. -/
def latchedResult (s : State) : Option Word := convert s.valueR s.totR.toNat s.expR.toNat

/-- The request on the ports at an edge at which the block takes requests (R63): acceptance, or the
fault transition (R65). -/
def present (p : InPorts) (s : State) : State :=
  match paramCheck p.totBits.toNat p.expBits.toNat with
  | .noFault => accept p s
  | .invalidTotalWidth => raiseFault .invalidTotalWidth s
  | .invalidExponentWidth => raiseFault .invalidExponentWidth s

/-- The converter at an edge in `BUSY`: it completes when its cycles are over (R64); a request without a
result is stuck (R66). -/
def converterEdge (s : State) : State :=
  match latchedResult s with
  | none => s
  | some r =>
    match s.cyclesLeft with
    | 0 => publish r s
    | n + 1 => { s with cyclesLeft := n }

/-- One rising edge of `clk`. Reset wins over everything (R121); `start` counts only in `IDLE` and `DONE`
and is ignored in `BUSY` and `FAULT` (R63; log 8). -/
def clockEdge (p : InPorts) (s : State) : State :=
  if p.rst then resetEvent s
  else
    match s.status with
    | .idle => if p.start then present p s else s
    | .done => if p.start then present p s else s
    | .busy => converterEdge s
    | .fault => s

/-- The host waits with `rst = 0` and `start = 0` until the converter has made its move: a `BUSY` request
that has a result completes, whatever `LATENCY` is (R64, R125 step 4); a stuck one stays (R66).
That this is what the edges do is the statement `TransactionIsClockedRun`. Log 2. -/
def awaitConverter (s : State) : State :=
  match s.status with
  | .busy =>
    match latchedResult s with
    | some r => publish r s
    | none => s
  | .idle => s
  | .done => s
  | .fault => s

/-- `CONVERT value, totBits, expBits` (R61): the request is presented at one edge, and the converter then
makes its move. A width that no port can carry is refused by name (R46, U16). -/
def execConvert (value : Word) (totBits expBits : Int) (s : State) :
    Host.Outcome State Fault Refusal :=
  if fitsPort totBits && fitsPort expBits then
    .next (awaitConverter (clockEdge (presentPorts value totBits expBits) s))
  else .refused .operandNotPresentable

end Sys2Proof.Machine
end

