-- ==== Sys2Proof/Machine/Dispatch.lean ====
section
/-! DEFINITION. The dispatch from instructions to their meanings. -/

namespace Sys2Proof.Machine

/-- The meaning of each instruction. -/
def exec (i : Instr) (s : State) : Host.Outcome State Fault Refusal :=
  match i with
  | .convert value totBits expBits => Sys2Proof.Machine.execConvert value totBits expBits s

end Sys2Proof.Machine
end

