-- ==== Sys2Proof/Machine/Step.lean ====
section
/-! DEFINITION. One step of the block, and placing a request where the next step takes it. -/

namespace Sys2Proof.Machine

/-- One step: the host's next move. A request is decoded and run; a bare edge is taken with its port
levels (log 1). -/
def step (s : State) : Host.Outcome State Fault Refusal :=
  match nextMove s with
  | (.edge p, s') => .next (clockEdge p s')
  | (.request req, s') => exec (decode req) s'

/-- `s` with the request word of `nbits` bits `w` as the host's very next move (log 1). -/
def State.withFetchWord (s : State) (nbits w : Nat) : State :=
  { s with host := .request (BitVec.ofNat 78 (w % 2 ^ nbits)) :: s.host }

end Sys2Proof.Machine
end

