-- ==== Sys2Proof/Machine/Flags.lean ====
section
/-! DEFINITION. The block has no flags or condition codes (R18); what it shows are its output ports and its status word. -/

namespace Sys2Proof.Machine

/-- The code of `STATUS` in the status word (R19). -/
def statusCode : Status → BitVec 2
  | .idle => 0
  | .busy => 1
  | .done => 2
  | .fault => 3

/-- The code of `CAUSE` (R108). -/
def causeCode : Cause → BitVec 2
  | .noFault => 0
  | .invalidTotalWidth => 1
  | .invalidExponentWidth => 2

/-- The 4-bit status word: `CAUSE` in bits 3:2, `STATUS` in bits 1:0 (R19). -/
def statusWord (s : State) : BitVec 4 := causeCode s.cause ++ statusCode s.status

/-- The output ports (R21). -/
structure OutPorts where
  busy : Bool
  done : Bool
  result : Word
  fault : Bool
  faultCause : BitVec 2
  deriving DecidableEq, Repr

/-- The output ports are pure functions of the state (R22). -/
def outputs (s : State) : OutPorts where
  busy := s.status == .busy
  done := s.status == .done
  result := s.result
  fault := s.status == .fault
  faultCause := causeCode s.cause

end Sys2Proof.Machine
end

