-- ==== Sys2Proof/Safety.lean ====
section
/-! DEFINITION. The terms the statements use: readiness, the hang set, the branch table, runs without reset, what the next host move is, and the consistency of a state. -/

namespace Sys2Proof.Machine

/-- The block takes requests: `STATUS` is `IDLE` or `DONE` (R63). -/
abbrev State.Ready (s : State) : Prop := s.status = .idle ∨ s.status = .done

/-- `value[62:52]` as a number (R37). -/
abbrev expOf (value : Word) : Nat := (value.extractLsb' 52 11).toNat

/-- `value[51:0]` as a 64-bit vector (R37). -/
abbrev manOf (value : Word) : Word := (value.extractLsb' 0 52).setWidth 64

/-- `value[63]` as a 64-bit vector (R37). -/
abbrev signOf (value : Word) : Word := (value.extractLsb' 63 1).setWidth 64

/-- `bias0 = E - 1023 + floatxBias`, written out (R72, R81). -/
abbrev bias0 (value : Word) (expBits : Nat) : Int := (expOf value : Int) - 1023 + (2 ^ (expBits - 1) - 1)

/-- The hang set, as a host can test for it (R90, R126). -/
abbrev InHangSet (value : Word) (totBits expBits : Nat) : Prop :=
  LegalParams totBits expBits ∧ manOf value = 0 ∧ 1 ≤ expOf value ∧
    (expOf value : Int) ≤ 1024 - 2 ^ (expBits - 1)

/-- `(S << (totBits - 1)) | (expfield << fmb) | manfield` (R106). -/
def packed (totBits expBits : Nat) (s expfield manfield : Word) : Word :=
  (s <<< (totBits - 1)) ||| (expfield <<< (totBits - expBits - 1)) ||| manfield

/-- The mantissa field the table gives for a 52-bit vector `m` (R72, R97). -/
def tableMantissa (totBits expBits : Nat) (m : Word) : Word :=
  if totBits - expBits - 1 ≤ 52 then m >>> (52 - (totBits - expBits - 1))
  else (Config.wideAlign m (totBits - expBits - 1)).setWidth 64

/-- The branch table of R72 with the layout of R106: the closed form of CONVERT for legal parameters,
`none` on the HANG row. Written from the table, not from the procedure. -/
def branchTable (value : Word) (totBits expBits : Nat) : Option Word :=
  if expOf value = 0 ∧ manOf value = 0 then some (packed totBits expBits (signOf value) 0 0)
  else if expOf value = 0x7FF ∧ manOf value = 0 then
    some (packed totBits expBits (signOf value) (ones expBits) 0)
  else if expOf value = 0x7FF then
    some (packed totBits expBits (signOf value) (ones expBits) (1#64 <<< (totBits - expBits - 2)))
  else if bias0 value expBits ≤ 0 ∧ manOf value = 0 then none
  else if bias0 value expBits ≤ 0 then
    some (packed totBits expBits (signOf value) 0
      (tableMantissa totBits expBits (manOf value >>> (-bias0 value expBits).toNat)))
  else if bias0 value expBits < 2 ^ expBits - 1 then
    some (packed totBits expBits (signOf value) (BitVec.ofNat 64 (bias0 value expBits).toNat)
      (tableMantissa totBits expBits (manOf value)))
  else some (packed totBits expBits (signOf value) (ones expBits) 0)

/-- The exponent field of a result (R39). -/
def expField (totBits expBits : Nat) (r : Word) : Nat :=
  (r >>> (totBits - expBits - 1)).toNat % 2 ^ expBits

/-- The mantissa field of a result (R39). -/
def manField (totBits expBits : Nat) (r : Word) : Nat := r.toNat % 2 ^ (totBits - expBits - 1)

/-- `k` steps of the machine, stopping at the first fault or refusal. -/
def runSteps : Nat → State → Host.Outcome State Fault Refusal
  | 0, s => .next s
  | k + 1, s =>
    match step s with
    | .next u => runSteps k u
    | .fault r => .fault r
    | .refused r => .refused r

/-- The host move drives `rst = 0`. -/
def HostMove.noReset : HostMove → Bool
  | .edge p => !p.rst
  | .request _ => true

/-- The operands a host move presents: an edge does with `rst = 0` and `start = 1` (R63), a request always. -/
def HostMove.operands : HostMove → Option (Word × Width × Width)
  | .edge p => if !p.rst && p.start then some (p.value, p.totBits, p.expBits) else none
  | .request req => some (valueField req, totBitsField req, expBitsField req)

/-- The operands the host's next move presents, if it presents any. -/
def State.presented (s : State) : Option (Word × Width × Width) := s.host.head?.bind HostMove.operands

/-- The host's next move is an edge with `rst = 1` (R121). -/
def State.takesReset (s : State) : Bool := s.host.head?.any fun mv => !mv.noReset

/-- What holds of every state the block can be in: the latches of an accepted request are legal (R63),
`DONE` means that `RESULT` is the conversion of the latched request (R34), `RESULT` is 0 in `IDLE`
(R22), and `CAUSE` is recorded exactly in `FAULT` (R15, R113). -/
structure State.Consistent (s : State) : Prop where
  busy_legal : s.status = .busy → LegalParams s.totR.toNat s.expR.toNat
  done_result : s.status = .done → latchedResult s = some s.result
  idle_result : s.status = .idle → s.result = 0
  cause_fault : s.cause ≠ .noFault ↔ s.status = .fault

end Sys2Proof.Machine
end

