-- ==== Sys2Proof/Certificates/Slice0/Obligations.lean ====
section
/-! DEFINITION. The statements about the model, one definition each. -/

open Sys2Proof Sys2Proof.Machine

/-! ## Encoding -/

/-- Request words written out from the layout of R46 are read as the requests they stand for. -/
def Obligations.DecodeReadsWrittenWords : Prop :=
  decode 0x04043FF0000000000000 = .convert 0x3FF0000000000000 8 4 ∧
  decode 0x1C833FF0000000000000 = .convert 0x3FF0000000000000 57 3 ∧
  decode 0x203EBFF8000000000000 = .convert 0xBFF8000000000000 64 62 ∧
  decode 0x3FFF3FF0000000000000 = .convert 0x3FF0000000000000 127 127

/-- Decoding the word of a well-formed instruction gives the instruction back, every operand at every value
the word admits (R46). -/
def Obligations.DecodeInvertsEncode : Prop :=
  ∀ i : Instr, i.wf = true → decode (encode i) = i

/-- A number is read as the instruction `i` exactly when `i` is well formed and the number is its request
word (R46, R51): each request has one encoding and nothing longer is a request. The rejection by name is
the model's form (log 10). -/
def Obligations.NumberIsReadAsItsOnlyRequest : Prop :=
  ∀ (n : Nat) (i : Instr), decodeNumber n = .ok i ↔ i.wf = true ∧ n = (encode i).toNat

/-! ## Steps -/

/-- The request the host presents next is decoded and run, and its move leaves the list. The list of host
moves is the model's choice (log 1). -/
def Obligations.StepRunsPresentedRequest : Prop :=
  ∀ (s : State) (i : Instr) (rest : List HostMove), i.wf = true →
    s.host = .request (encode i) :: rest → step s = exec i { s with host := rest }

/-- A request word placed with `withFetchWord` is run by the very next step (log 1). -/
def Obligations.PlacedWordRunsNext : Prop :=
  ∀ (s : State) (i : Instr), i.wf = true →
    step (s.withFetchWord 80 (encode i).toNat) = exec i s ∧
    decodeTableWord 80 (encode i).toNat = some i

/-- A bare edge is taken with its port levels, and with no host move left the ports are idle (log 1). -/
def Obligations.StepTakesClockEdge : Prop :=
  ∀ (s : State) (p : InPorts) (rest : List HostMove),
    (s.host = .edge p :: rest → step s = .next (clockEdge p { s with host := rest })) ∧
    (s.host = [] → step s = .next (clockEdge idlePorts s))

/-- Every step answers a next state: no step ends in a fault or a refusal (R47, R50). That the block's
faults and its stuck state are next states is the model's form (log 6 and the docstring of `Fault`). -/
def Obligations.EveryStepAnswersNext : Prop :=
  ∀ s : State, ∃ t : State, step s = .next t

/-! ## The bit-field cells -/

/-- GETFIELD reads the field right-aligned and zero-extended (R54). -/
def Obligations.GetFieldReadsTheField : Prop :=
  ∀ (start width : Nat) (c : Word), 1 ≤ width → width ≤ start + 1 → start ≤ 63 →
    getField start width c = (c.extractLsb' (start + 1 - width) width).setWidth 64

/-- SETBIT writes one bit and no other (R55). -/
def Obligations.SetBitWritesOneBit : Prop :=
  ∀ (pos : Nat) (b : Bool) (c : Word), pos ≤ 63 →
    (setBit pos b c).getLsbD pos = b ∧
    ∀ i, i ≠ pos → (setBit pos b c).getLsbD i = c.getLsbD i

/-- SETFIELD replaces the field by the low bits of the value and leaves every other bit (R56). -/
def Obligations.SetFieldReplacesTheField : Prop :=
  ∀ (start width : Nat) (value c : Word), 1 ≤ width → width ≤ start + 1 → start ≤ 63 →
    getField start width (setField start width value c) =
      (value.extractLsb' 0 width).setWidth 64 ∧
    ∀ i, i < start + 1 - width ∨ start < i →
      (setField start width value c).getLsbD i = c.getLsbD i

/-- For legal parameters every field the converter writes is in the cells' range, and the three fields lie
directly below one another from bit `totBits - 1` down to bit 0 (R39; the ranges are what the spec derives
under its table of R57). -/
def Obligations.FieldsOfResultAreAdjacent : Prop :=
  ∀ t e : Nat, LegalParams t e →
    1 ≤ fmb t e ∧ t - 1 ≤ 63 ∧ e ≤ t - 2 + 1 ∧ fmb t e ≤ t - e - 2 + 1 ∧
    t - 2 + 1 - e = fmb t e ∧ t - e - 2 + 1 - fmb t e = 0 ∧ t - e - 2 + 1 = fmb t e ∧
    fmb t e ≤ 61

/-! ## Parameters -/

/-- Step 0 tells the three cases apart, `totBits` first (R60). -/
def Obligations.ParameterCheckOrder : Prop :=
  ∀ t e : Nat,
    (paramCheck t e = .invalidTotalWidth ↔ t < 4 ∨ 64 < t) ∧
    (paramCheck t e = .invalidExponentWidth ↔ (4 ≤ t ∧ t ≤ 64) ∧ (e < 2 ∨ t - 2 < e)) ∧
    (paramCheck t e = .noFault ↔ LegalParams t e)

/-- A request with illegal parameters faults: STATUS and CAUSE change, nothing else does, and the ports
show the fault. The cause is 1 for an illegal `totBits`, whatever `expBits` is, and 2 for an illegal
`expBits` beside a legal `totBits` (R107, R110, R111). -/
def Obligations.IllegalParametersFault : Prop :=
  ∀ (s : State) (v : Word) (t e : Nat), s.Ready → t ≤ 127 → e ≤ 127 → ¬ LegalParams t e →
    ∃ u : State, exec (.convert v t e) s = .next u ∧
      u = { s with
            status := .fault
            cause := if t < 4 ∨ 64 < t then .invalidTotalWidth else .invalidExponentWidth } ∧
      outputs u = { busy := false, done := false, result := s.result, fault := true,
                    faultCause := if t < 4 ∨ 64 < t then 1 else 2 }

/-- A width that no port can carry is refused by name (R46, U16); the refusal's form is the model's choice
(log 9). -/
def Obligations.UnpresentableWidthIsRefused : Prop :=
  ∀ (s : State) (v : Word) (t e : Int), (t < 0 ∨ 127 < t ∨ e < 0 ∨ 127 < e) →
    exec (.convert v t e) s = .refused .operandNotPresentable

/-! ## CONVERT completes -/

/-- CONVERT with legal parameters outside the hang set, presented to a ready block, answers DONE with the
result of the branch table in RESULT and the operands in the latches; CAUSE and the host's moves stay. The
table is the summary that the spec derives in R72. That one step carries acceptance and completion is the
model's choice (log 2). -/
def Obligations.ConvertCompletesWithTableResult : Prop :=
  ∀ (s : State) (v : Word) (t e : Nat), s.Ready → LegalParams t e → ¬ InHangSet v t e →
    ∃ r : Word, branchTable v t e = some r ∧
      exec (.convert v t e) s =
        .next { s with status := .done, result := r, valueR := v, totR := BitVec.ofNat 7 t,
                       expR := BitVec.ofNat 7 e, cyclesLeft := 0, freeCount := s.freeCount + 1 }

/-- A request in the hang set is accepted and does not complete: BUSY with its operands in the latches,
RESULT and CAUSE as before (R63, R66; which requests these are the spec derives in R90). -/
def Obligations.HangRequestStaysBusy : Prop :=
  ∀ (s : State) (v : Word) (t e : Nat), s.Ready → InHangSet v t e →
    ∃ u : State, exec (.convert v t e) s = .next u ∧ u.status = .busy ∧ u.valueR = v ∧
      u.totR = BitVec.ofNat 7 t ∧ u.expR = BitVec.ofNat 7 e ∧ u.result = s.result ∧
      u.cause = s.cause ∧ u.host = s.host ∧ latchedResult u = none

/-- A request presented in BUSY or FAULT is lost: the latches and CAUSE keep their values, FAULT and a
stuck BUSY stay as they are, and a BUSY request that has a result completes with its own result (R63, R113;
that the host waits is the model's choice, log 2). -/
def Obligations.RequestWhileNotReadyIsLost : Prop :=
  ∀ (s : State) (v : Word) (t e : Nat), t ≤ 127 → e ≤ 127 →
    (s.status = .fault → exec (.convert v t e) s = .next s) ∧
    (s.status = .busy → latchedResult s = none → exec (.convert v t e) s = .next s) ∧
    (∀ r, s.status = .busy → latchedResult s = some r →
      exec (.convert v t e) s = .next { s with status := .done, result := r, cyclesLeft := 0 })

/-- The value published for a request is a function of its three operands alone: two ready blocks, whatever
their histories, end alike (R11). -/
def Obligations.ResultDependsOnOperandsAlone : Prop :=
  ∀ (s s' : State) (v : Word) (t e : Nat), s.Ready → s'.Ready → t ≤ 127 → e ≤ 127 →
    ∃ u u' : State, exec (.convert v t e) s = .next u ∧ exec (.convert v t e) s' = .next u' ∧
      u.status = u'.status ∧ (u.status = .done → u.result = u'.result)

/-! ## The function -/

/-- The step-by-step procedure of R61 and the branch table of R72 give the same result, or none, for every
legal request, wide configurations included. R72 is a summary that the spec derives. -/
def Obligations.ProcedureIsBranchTable : Prop :=
  ∀ (v : Word) (t e : Nat), LegalParams t e → convert v t e = branchTable v t e

/-- A legal request has no result exactly when it is in the hang set, which is empty for `expBits ≥ 11`
(derived by the spec in R90, a hazard in R126). -/
def Obligations.HangSetIsExact : Prop :=
  ∀ (v : Word) (t e : Nat), LegalParams t e →
    (convert v t e = none ↔ InHangSet v t e) ∧ (InHangSet v t e → e ≤ 10)

/-- The sign bit of the result is the sign bit of the input, on every path (R67). -/
def Obligations.SignIsCopied : Prop :=
  ∀ (v r : Word) (t e : Nat), LegalParams t e → convert v t e = some r →
    r.getLsbD (t - 1) = v.getLsbD 63

/-- The exponent field of the result: 0 on the zero and subnormal paths, all ones on the infinity, NaN and
overflow paths, `bias0` strictly between on the normal path (R68). -/
def Obligations.ExponentFieldByPath : Prop :=
  ∀ (v r : Word) (t e : Nat), LegalParams t e → convert v t e = some r →
    expField t e r ≤ 2 ^ e - 1 ∧
    (expOf v = 0 ∧ manOf v = 0 → expField t e r = 0) ∧
    (expOf v = 0x7FF → expField t e r = 2 ^ e - 1) ∧
    (expOf v ≠ 0x7FF → ¬(expOf v = 0 ∧ manOf v = 0) →
      (bias0 v e ≤ 0 → expField t e r = 0) ∧
      (0 < bias0 v e → bias0 v e < 2 ^ e - 1 → (expField t e r : Int) = bias0 v e) ∧
      (2 ^ e - 1 ≤ bias0 v e → expField t e r = 2 ^ e - 1))

/-- Bits `[63:totBits]` of every result are zero (R69). -/
def Obligations.HighBitsAreZero : Prop :=
  ∀ (v r : Word) (t e : Nat), LegalParams t e → convert v t e = some r →
    ∀ i, t ≤ i → r.getLsbD i = false

/-- Zeros, infinities and NaNs: the fields the source states for them, for every legal `(t, e)`; every NaN
of one sign gives one pattern (R70). That all three complete for every legal `(t, e)`, wide configurations
included, is the sentence marked derived in R70 ("These three hold for every legal `(t, e)`"), and one NaN
pattern per sign is what the spec derives in R78. -/
def Obligations.SpecialValues : Prop :=
  ∀ (v : Word) (t e : Nat), LegalParams t e →
    (expOf v = 0 → manOf v = 0 → convert v t e = some (signOf v <<< (t - 1))) ∧
    (expOf v = 0x7FF → manOf v = 0 →
      convert v t e = some (signOf v <<< (t - 1) ||| ones e <<< fmb t e)) ∧
    (expOf v = 0x7FF → manOf v ≠ 0 →
      convert v t e = some (signOf v <<< (t - 1) ||| ones e <<< fmb t e ||| 1#64 <<< (fmb t e - 1)))

/-- Overflow: from the threshold on, a finite input gives the infinity of its sign, and below it does not
take that path (R103; the threshold on `E` and `e ≤ 10` are what the spec derives there and in R85). -/
def Obligations.OverflowIsSignedInfinity : Prop :=
  ∀ (v : Word) (t e : Nat), LegalParams t e → expOf v ≤ 2046 →
    (expOnes e ≤ bias0 v e ↔ 1023 + 2 ^ (e - 1) ≤ expOf v) ∧
    (1023 + 2 ^ (e - 1) ≤ expOf v → e ≤ 10 ∧
      convert v t e = some (signOf v <<< (t - 1) ||| ones e <<< fmb t e) ∧
      convert v t e = convert (signOf v <<< 63 ||| 0x7FF0000000000000) t e)

/-- Growing magnitude never lowers the exponent field of the result: it does not wrap (R71, R104; the
paths' order is what the spec derives in R87). -/
def Obligations.ExponentFieldIsMonotone : Prop :=
  ∀ (v v' r r' : Word) (t e : Nat), LegalParams t e → v.toNat % 2 ^ 63 ≤ v'.toNat % 2 ^ 63 →
    convert v t e = some r → convert v' t e = some r' → expField t e r ≤ expField t e r'

/-- Truncation: finite non-zero inputs that differ only in mantissa bits below the target precision give
the same result when both have one (R71, R101; which inputs the sentence of R71 covers is read in log 12).
-/
def Obligations.LowMantissaBitsAreDropped : Prop :=
  ∀ (v v' r r' : Word) (t e : Nat), LegalParams t e → fmb t e ≤ 52 →
    v >>> (52 - fmb t e) = v' >>> (52 - fmb t e) → expOf v ≠ 0x7FF →
    v.toNat % 2 ^ 63 ≠ 0 → v'.toNat % 2 ^ 63 ≠ 0 →
    convert v t e = some r → convert v' t e = some r' → r = r'

/-- With binary64's own widths the conversion is the identity on everything but NaNs, which all become the
NaN of their sign with the top mantissa bit set (derived by the spec in R102). -/
def Obligations.DoubleLayoutIsIdentity : Prop :=
  ∀ v : Word,
    (¬(expOf v = 0x7FF ∧ manOf v ≠ 0) → convert v 64 11 = some v) ∧
    (expOf v = 0x7FF ∧ manOf v ≠ 0 →
      convert v 64 11 = some (signOf v <<< 63 ||| 0x7FF8000000000000))

/-! ## The steps of the function -/

/-- DECOMPOSE: the three raw fields, which partition the 64 bits (R73). -/
def Obligations.DecomposePartitionsTheDouble : Prop :=
  ∀ v : Word, (decompose v).s = signOf v ∧ (decompose v).e.toNat = expOf v ∧ (decompose v).m = manOf v ∧
    v = (decompose v).s <<< 63 ||| (decompose v).e <<< 52 ||| (decompose v).m

/-- The ranges of the step-5 quantities (derived by the spec in R83). -/
def Obligations.RebiasRanges : Prop :=
  ∀ (v : Word) (t e : Nat), LegalParams t e → expOf v ≤ 2046 →
    1 ≤ floatxBias e ∧ floatxBias e ≤ 2 ^ 61 - 1 ∧
    -1022 ≤ rebias (decompose v).e e ∧ rebias (decompose v).e e ≤ 2 ^ 61 + 1022 ∧
    3 ≤ expOnes e ∧ expOnes e ≤ 2 ^ 62 - 1

/-- Which path each exponent takes, for each `expBits` (R84; the table is derived by the spec in R85). -/
def Obligations.PathByExponent : Prop :=
  ∀ (v : Word) (t e : Nat), LegalParams t e → expOf v ≤ 2046 →
    (e ≤ 10 →
      (pathSel (rebias (decompose v).e e) e = .subnormal ↔ (expOf v : Int) ≤ 1023 - floatxBias e) ∧
      (pathSel (rebias (decompose v).e e) e = .normal ↔
        1024 - floatxBias e ≤ (expOf v : Int) ∧ expOf v ≤ 1022 + 2 ^ (e - 1)) ∧
      (pathSel (rebias (decompose v).e e) e = .overflow ↔ 1023 + 2 ^ (e - 1) ≤ expOf v)) ∧
    (e = 11 → (pathSel (rebias (decompose v).e e) e = .subnormal ↔ expOf v = 0) ∧
      (pathSel (rebias (decompose v).e e) e = .normal ↔ 1 ≤ expOf v)) ∧
    (12 ≤ e → pathSel (rebias (decompose v).e e) e = .normal)

/-- SCAN on a 52-bit `M` that is not 0: the leading one lands on bit 52, no bit is lost, between 1 and 52
shifts are made, and more tests change nothing (the sentence marked derived in R89; the bound on the tests
is log 6). -/
def Obligations.ScanFindsTheLeadingOne : Prop :=
  ∀ m : Word, m ≠ 0 → m.toNat < 2 ^ 52 →
    ∃ (m1 : Word) (sc : Nat), scan m = some (m1, sc) ∧ sc = 52 - Nat.log2 m.toNat ∧ 1 ≤ sc ∧ sc ≤ 52 ∧
      m1.toNat = m.toNat * 2 ^ sc ∧ 2 ^ 52 ≤ m1.toNat ∧ m1.toNat < 2 ^ 53 ∧
      ∀ extra, scanLoop (53 + extra) m 0 = some (m1, sc)

/-- SCAN on `M = 0` never ends, however many tests are made (R90, R89; log 6). -/
def Obligations.ScanOfZeroNeverEnds : Prop :=
  ∀ fuel sc : Nat, scanLoop fuel 0 sc = none

/-- After BIASADJ the exponent candidate is between -1074 and -1, so the BOUNDARY arm is never taken
(derived by the spec in R91 and R93). -/
def Obligations.BoundaryArmIsUnreachable : Prop :=
  ∀ (m m1 : Word) (sc : Nat) (bias : Int), m.toNat < 2 ^ 52 → scan m = some (m1, sc) →
    -1022 ≤ bias → bias ≤ 0 → -1074 ≤ bias - sc ∧ bias - sc ≤ -1

/-- DEMOTE ends with `bias = 0` after `-bias` right shifts, 0 from 53 shifts on, and leaves `M` below bit
52 (R94; the last is the sentence marked derived there). -/
def Obligations.DemoteShiftsOutTheBias : Prop :=
  ∀ (m : Word) (bias : Int), bias < 0 → m.toNat < 2 ^ 53 →
    (demote m bias).2 = 0 ∧ (demote m bias).1 = (m ||| 1#64 <<< 52) >>> (-bias).toNat ∧
    (demote m bias).1.toNat < 2 ^ 52 ∧ (bias ≤ -53 → (demote m bias).1 = 0)

/-- The closed form of step 6: the scan's shift cancels, and the aligned mantissa is the stored field
shifted right by `52 - fmb - bias0` (derived by the spec in R98). -/
def Obligations.SubnormalClosedForm : Prop :=
  ∀ (m : Word) (bias : Int) (t e : Nat), m ≠ 0 → m.toNat < 2 ^ 52 → bias ≤ 0 → LegalParams t e →
    ∃ (m1 : Word) (sc : Nat), scan m = some (m1, sc) ∧
      boundaryOrDemote m1 (bias - sc) = (m >>> (-bias).toNat, 0) ∧
      (fmb t e ≤ 52 → alignMantissa (m >>> (-bias).toNat) (fmb t e) =
        m >>> ((52 : Int) - fmb t e - bias).toNat)

/-! ## Clock edges -/

/-- The edge at which a request is or is not taken: accepted, faulted, ignored, or no request (R63). That
`start` in BUSY is as if it were 0 is read in log 8. -/
def Obligations.RequestEdge : Prop :=
  ∀ (s : State) (p : InPorts) (rest : List HostMove), p.rst = false →
    (s.Ready → p.start = true → LegalParams p.totBits.toNat p.expBits.toNat →
      ∃ u : State, step { s with host := .edge p :: rest } = .next u ∧ u.status = .busy ∧
        u.valueR = p.value ∧ u.totR = p.totBits ∧ u.expR = p.expBits ∧ u.result = s.result ∧
        u.cause = s.cause ∧ u.host = rest) ∧
    (s.Ready → p.start = true → ¬ LegalParams p.totBits.toNat p.expBits.toNat →
      step { s with host := .edge p :: rest } =
        .next { s with status := .fault, cause := paramCheck p.totBits.toNat p.expBits.toNat, host := rest }) ∧
    (s.Ready → p.start = false →
      step { s with host := .edge p :: rest } = .next { s with host := rest }) ∧
    (s.status = .fault → step { s with host := .edge p :: rest } = .next { s with host := rest }) ∧
    (s.status = .busy → step { s with host := .edge p :: rest } =
      step { s with host := .edge idlePorts :: rest })

/-- Completion is guaranteed: a BUSY request that has a result stays BUSY with RESULT unchanged until its
cycles are over and completes at the next edge, whatever the ports carry short of reset (R64). The count of
cycles is the model's free value (log 3); that `start` does not hold a completion back is read in log 8. -/
def Obligations.BusyRequestCompletes : Prop :=
  ∀ (s : State) (r : Word) (ps : List InPorts) (rest : List HostMove), s.status = .busy →
    latchedResult s = some r → (∀ p ∈ ps, p.rst = false) →
    (ps.length ≤ s.cyclesLeft →
      runSteps ps.length { s with host := ps.map .edge ++ rest } =
        .next { s with cyclesLeft := s.cyclesLeft - ps.length, host := rest }) ∧
    (ps.length = s.cyclesLeft + 1 →
      runSteps ps.length { s with host := ps.map .edge ++ rest } =
        .next { s with status := .done, result := r, cyclesLeft := 0, host := rest })

/-- Executing CONVERT is a run of clock edges: one that presents the request, then finitely many on which
the host does nothing (R125, R133). The transaction as one execution is the model's choice (log 2). -/
def Obligations.TransactionIsClockedRun : Prop :=
  ∀ (s : State) (v : Word) (t e : Int), fitsPort t = true → fitsPort e = true →
    ∃ n : Nat, runSteps (n + 1)
        { s with host := .edge (presentPorts v t e) :: (List.replicate n (.edge idlePorts) ++ s.host) } =
      exec (.convert v t e) s

/-- An edge with `rst = 1` resets the block whatever its state and whatever the other ports carry (R121);
what it leaves in the latches is free. -/
def Obligations.ResetEdge : Prop :=
  ∀ (s : State) (p : InPorts) (rest : List HostMove), p.rst = true →
    ∃ u : State, step { s with host := .edge p :: rest } = .next u ∧
      u.status = .idle ∧ u.cause = .noFault ∧ u.result = 0 ∧ u.host = rest

/-- The state after reset and the ports it shows (R122). -/
def Obligations.StateAfterReset : Prop :=
  State.reset.status = .idle ∧ State.reset.cause = .noFault ∧ State.reset.result = 0 ∧
  outputs State.reset = { busy := false, done := false, result := 0, fault := false, faultCause := 0 } ∧
  statusWord State.reset = 0

/-- The output ports: each shows its state, at most one of `busy`, `done`, `fault` is 1, and none exactly
in IDLE (R22). -/
def Obligations.OutputsShowTheState : Prop :=
  ∀ s : State,
    ((outputs s).busy = true ↔ s.status = .busy) ∧ ((outputs s).done = true ↔ s.status = .done) ∧
    ((outputs s).fault = true ↔ s.status = .fault) ∧ (outputs s).result = s.result ∧
    (outputs s).faultCause = causeCode s.cause ∧
    ((outputs s).busy.toNat + (outputs s).done.toNat + (outputs s).fault.toNat =
      if s.status = .idle then 0 else 1)

/-- The status word: STATUS in bits 1:0 as 0 to 3, CAUSE in bits 3:2 as 0, 1 or 2 and never 3 (R19, R108).
-/
def Obligations.StatusWordCodes : Prop :=
  ∀ s : State,
    (s.status = .idle → (statusWord s).extractLsb' 0 2 = 0) ∧
    (s.status = .busy → (statusWord s).extractLsb' 0 2 = 1) ∧
    (s.status = .done → (statusWord s).extractLsb' 0 2 = 2) ∧
    (s.status = .fault → (statusWord s).extractLsb' 0 2 = 3) ∧
    (s.cause = .noFault → (statusWord s).extractLsb' 2 2 = 0) ∧
    (s.cause = .invalidTotalWidth → (statusWord s).extractLsb' 2 2 = 1) ∧
    (s.cause = .invalidExponentWidth → (statusWord s).extractLsb' 2 2 = 2) ∧
    (statusWord s).extractLsb' 2 2 ≠ 3

/-! ## Whole-machine rules -/

/-- A fault is kept until reset, and so is a stuck request: with no reset among the host's moves, every run
leaves such a state as it is but for the moves taken (R66, R113). -/
def Obligations.FaultAndStuckHoldUntilReset : Prop :=
  ∀ (s : State) (k : Nat), (s.status = .fault ∨ (s.status = .busy ∧ latchedResult s = none)) →
    (∀ mv ∈ s.host, mv.noReset = true) →
    runSteps k s = .next { s with host := s.host.drop k }

/-- Who writes what (R12, R13, R14, R15), each change with the host move that makes it. Acceptance and the
fault transition need a request presented to a ready block, and the latches then hold its operands;
completion needs a BUSY request, or a whole transaction the host presents and waits for (log 2); reset needs
an edge with `rst = 1`. Nothing else changes STATUS, RESULT, a latch or CAUSE. -/
def Obligations.StateIsWrittenOnlyByItsTransitions : Prop :=
  ∀ s u : State, step s = .next u →
    (u.status ≠ s.status →
      (s.Ready ∧ s.presented = some (u.valueR, u.totR, u.expR) ∧
        LegalParams u.totR.toNat u.expR.toNat ∧ (u.status = .busy ∨ u.status = .done)) ∨
      (s.Ready ∧ u.status = .fault ∧ ∃ v t e, s.presented = some (v, t, e) ∧ ¬ LegalParams t.toNat e.toNat) ∨
      (s.status = .busy ∧ s.takesReset = false ∧ u.status = .done) ∨
      (s.takesReset = true ∧ u.status = .idle)) ∧
    (u.result ≠ s.result →
      (s.status = .busy ∧ s.takesReset = false ∧ u.status = .done ∧ latchedResult s = some u.result) ∨
      (s.Ready ∧ (∃ req, s.host.head? = some (.request req)) ∧
        s.presented = some (u.valueR, u.totR, u.expR) ∧ u.status = .done ∧
        latchedResult u = some u.result) ∨
      (s.takesReset = true ∧ u.status = .idle ∧ u.result = 0)) ∧
    ((u.valueR ≠ s.valueR ∨ u.totR ≠ s.totR ∨ u.expR ≠ s.expR) →
      (s.Ready ∧ s.presented = some (u.valueR, u.totR, u.expR) ∧
        LegalParams u.totR.toNat u.expR.toNat ∧ (u.status = .busy ∨ u.status = .done)) ∨
      (s.takesReset = true ∧ u.status = .idle)) ∧
    (u.cause ≠ s.cause →
      (s.Ready ∧ u.status = .fault ∧ u.cause ≠ .noFault ∧
        ∃ v t e, s.presented = some (v, t, e) ∧ u.cause = paramCheck t.toNat e.toNat) ∨
      (s.takesReset = true ∧ u.status = .idle ∧ u.cause = .noFault))

/-- The state after reset is consistent. -/
def Obligations.ResetIsConsistent : Prop := State.reset.Consistent

/-- Every step keeps a state consistent: while `done` is up, RESULT is the conversion of the last accepted
request (R34), BUSY only ever holds legal widths, and CAUSE is recorded exactly in FAULT (R15). -/
def Obligations.StepKeepsConsistent : Prop :=
  ∀ s u : State, s.Consistent → step s = .next u → u.Consistent
end

