-- ==== Sys2Proof/Laws/Bits.lean ====
section
/-! SUPPORT. The bit-field cells, bit by bit. -/

namespace Sys2Proof.Machine

/-- Bit `i` of `ones n` is set exactly below `n`. -/
theorem getLsbD_ones (n i : Nat) : (ones n).getLsbD i = (decide (i < 64) && decide (i < n)) := by
  rw [ones, BitVec.getLsbD_ofNat, Nat.testBit_two_pow_sub_one]

/-- Bit `i` of a field that was read is bit `i` of the field. -/
theorem getLsbD_getField (start width : Nat) (c : Word) (i : Nat) :
    (getField start width c).getLsbD i =
      (c.getLsbD (start + 1 - width + i) && (decide (i < 64) && decide (i < width))) := by
  rw [getField, BitVec.getLsbD_and, BitVec.getLsbD_ushiftRight, getLsbD_ones]

/-- Only bit `pos` of `1 << pos` is set. -/
theorem getLsbD_one_shiftLeft (pos i : Nat) (hp : pos < 64) :
    (1#64 <<< pos).getLsbD i = decide (i = pos) := by
  rw [BitVec.getLsbD_shiftLeft, BitVec.getLsbD_one, ← Bool.coe_iff_coe]
  simp only [Bool.and_eq_true, Bool.not_eq_true', decide_eq_true_eq, decide_eq_false_iff_not]
  omega

/-- The bits of a container after one bit is written. -/
theorem getLsbD_setBit (pos : Nat) (b : Bool) (c : Word) (i : Nat) (hp : pos < 64) :
    (setBit pos b c).getLsbD i = if i = pos then b else c.getLsbD i := by
  have hc : 64 ≤ i → c.getLsbD i = false := BitVec.getLsbD_of_ge c i
  rw [setBit, BitVec.getLsbD_or, BitVec.getLsbD_and, BitVec.getLsbD_not,
    getLsbD_one_shiftLeft pos i hp, apply_ite (BitVec.getLsbD · i), BitVec.getLsbD_zero,
    getLsbD_one_shiftLeft pos i hp]
  by_cases h : i = pos
  · cases b <;> simp [h]
  · rcases Nat.lt_or_ge i 64 with hi | hi
    · cases b <;> simp [h, hi]
    · cases b <;> simp [h, hc hi]

/-- The bits of a container after a field is written: the value's low bits inside it, the old ones
outside. -/
theorem getLsbD_setField (start width : Nat) (value c : Word) (i : Nat)
    (hw : width ≤ start + 1) (hs : start ≤ 63) :
    (setField start width value c).getLsbD i =
      if start + 1 - width ≤ i ∧ i ≤ start then value.getLsbD (i - (start + 1 - width))
      else c.getLsbD i := by
  have hc : 64 ≤ i → c.getLsbD i = false := BitVec.getLsbD_of_ge c i
  simp only [setField, BitVec.getLsbD_or, BitVec.getLsbD_and, BitVec.getLsbD_not,
    BitVec.getLsbD_shiftLeft, getLsbD_ones]
  rcases Nat.lt_or_ge i 64 with hi | hi
  · by_cases hlo : start + 1 - width ≤ i
    · by_cases hhi : i ≤ start
      · have h1 : i - (start + 1 - width) < width := by omega
        have h2 : i - (start + 1 - width) < 64 := by omega
        simp [hi, hlo, hhi, h1, h2, Nat.not_lt.mpr hlo]
      · have h1 : ¬ i - (start + 1 - width) < width := by omega
        simp [hi, hhi, h1]
    · simp [hi, hlo, Nat.lt_of_not_le hlo]
  · have h1 : ¬ i ≤ start := by omega
    simp [h1, hc hi, Nat.not_lt.mpr hi]

end Sys2Proof.Machine
end

