-- ==== Sys2Proof/Laws/State.lean ====
section
/-! SUPPORT. Each field after each transition, so that no proof unfolds a record update. -/

namespace Sys2Proof.Machine

/-! ## Acceptance (R63) -/

section

variable (p : InPorts) (s : State)

@[simp] theorem accept_status : (accept p s).status = .busy := rfl
@[simp] theorem accept_cause : (accept p s).cause = s.cause := rfl
@[simp] theorem accept_result : (accept p s).result = s.result := rfl
@[simp] theorem accept_valueR : (accept p s).valueR = p.value := rfl
@[simp] theorem accept_totR : (accept p s).totR = p.totBits := rfl
@[simp] theorem accept_expR : (accept p s).expR = p.expBits := rfl
@[simp] theorem accept_cyclesLeft : (accept p s).cyclesLeft = Config.latency s.freeCount p.value p.totBits p.expBits := rfl
@[simp] theorem accept_freeCount : (accept p s).freeCount = s.freeCount + 1 := rfl
@[simp] theorem accept_host : (accept p s).host = s.host := rfl

end

/-! ## The fault transition (R111) -/

section

variable (c : Cause) (s : State)

@[simp] theorem raiseFault_status : (raiseFault c s).status = .fault := rfl
@[simp] theorem raiseFault_cause : (raiseFault c s).cause = c := rfl
@[simp] theorem raiseFault_result : (raiseFault c s).result = s.result := rfl
@[simp] theorem raiseFault_valueR : (raiseFault c s).valueR = s.valueR := rfl
@[simp] theorem raiseFault_totR : (raiseFault c s).totR = s.totR := rfl
@[simp] theorem raiseFault_expR : (raiseFault c s).expR = s.expR := rfl
@[simp] theorem raiseFault_cyclesLeft : (raiseFault c s).cyclesLeft = s.cyclesLeft := rfl
@[simp] theorem raiseFault_freeCount : (raiseFault c s).freeCount = s.freeCount := rfl
@[simp] theorem raiseFault_host : (raiseFault c s).host = s.host := rfl

end

/-! ## Completion (R64) -/

section

variable (r : Word) (s : State)

@[simp] theorem publish_status : (publish r s).status = .done := rfl
@[simp] theorem publish_cause : (publish r s).cause = s.cause := rfl
@[simp] theorem publish_result : (publish r s).result = r := rfl
@[simp] theorem publish_valueR : (publish r s).valueR = s.valueR := rfl
@[simp] theorem publish_totR : (publish r s).totR = s.totR := rfl
@[simp] theorem publish_expR : (publish r s).expR = s.expR := rfl
@[simp] theorem publish_cyclesLeft : (publish r s).cyclesLeft = 0 := rfl
@[simp] theorem publish_freeCount : (publish r s).freeCount = s.freeCount := rfl
@[simp] theorem publish_host : (publish r s).host = s.host := rfl

end

/-! ## The reset event (R121) -/

section

variable (s : State)

@[simp] theorem resetEvent_status : (resetEvent s).status = .idle := rfl
@[simp] theorem resetEvent_cause : (resetEvent s).cause = .noFault := rfl
@[simp] theorem resetEvent_result : (resetEvent s).result = 0 := rfl
@[simp] theorem resetEvent_valueR : (resetEvent s).valueR = Config.resetValueR s.freeCount := rfl
@[simp] theorem resetEvent_totR : (resetEvent s).totR = Config.resetTotR s.freeCount := rfl
@[simp] theorem resetEvent_expR : (resetEvent s).expR = Config.resetExpR s.freeCount := rfl
@[simp] theorem resetEvent_cyclesLeft : (resetEvent s).cyclesLeft = 0 := rfl
@[simp] theorem resetEvent_freeCount : (resetEvent s).freeCount = s.freeCount + 1 := rfl
@[simp] theorem resetEvent_host : (resetEvent s).host = s.host := rfl

end

/-! ## Moves taken and given -/

theorem nextMove_of_nil {s : State} (h : s.host = []) : nextMove s = (.edge idlePorts, s) := by
  simp [nextMove, h]

theorem nextMove_of_cons {s : State} {mv : HostMove} {rest : List HostMove} (h : s.host = mv :: rest) :
    nextMove s = (mv, { s with host := rest }) := by
  simp [nextMove, h]

@[simp] theorem nextMove_cons (s : State) (mv : HostMove) (rest : List HostMove) :
    nextMove { s with host := mv :: rest } = (mv, { s with host := rest }) := rfl

end Sys2Proof.Machine
end

