-- ==== Sys2Proof/Laws/Clock.lean ====
section
/-! SUPPORT. What a clock edge, a transaction and a step can do, said once each. -/

namespace Sys2Proof.Machine

/-! ## Step 0 -/

/-- The check passes exactly on legal parameters. -/
theorem paramCheck_eq_noFault {t e : Nat} (h : LegalParams t e) : paramCheck t e = .noFault := by
  obtain ⟨h1, h2, h3, h4⟩ := h
  rw [paramCheck, if_neg (by omega), if_neg (by omega)]

/-- On illegal parameters the check names a cause. -/
theorem paramCheck_ne_noFault {t e : Nat} (h : ¬ LegalParams t e) : paramCheck t e ≠ .noFault := by
  unfold paramCheck
  split
  · simp
  · split
    · simp
    · exact absurd ⟨by omega, by omega, by omega, by omega⟩ h

/-! ## Transitions -/

/-- A presented request is accepted or faults. -/
theorem present_cases (p : InPorts) (s : State) :
    (LegalParams p.totBits.toNat p.expBits.toNat ∧ present p s = accept p s) ∨
    (¬ LegalParams p.totBits.toNat p.expBits.toNat ∧
      present p s = raiseFault (paramCheck p.totBits.toNat p.expBits.toNat) s) := by
  by_cases h : LegalParams p.totBits.toNat p.expBits.toNat
  · exact .inl ⟨h, by simp [present, paramCheck_eq_noFault h]⟩
  · refine .inr ⟨h, ?_⟩
    have := paramCheck_ne_noFault h
    cases hc : paramCheck p.totBits.toNat p.expBits.toNat <;> simp_all [present]

/-- At an edge in BUSY the converter is stuck, completes, or counts one cycle down. -/
theorem converterEdge_cases (s : State) :
    (latchedResult s = none ∧ converterEdge s = s) ∨
    (∃ r, latchedResult s = some r ∧ s.cyclesLeft = 0 ∧ converterEdge s = publish r s) ∨
    (∃ r n, latchedResult s = some r ∧ s.cyclesLeft = n + 1 ∧
      converterEdge s = { s with cyclesLeft := n }) := by
  cases hl : latchedResult s with
  | none => exact .inl ⟨rfl, by simp [converterEdge, hl]⟩
  | some r =>
    cases hc : s.cyclesLeft with
    | zero => exact .inr (.inl ⟨r, rfl, rfl, by simp [converterEdge, hl, hc]⟩)
    | succ n => exact .inr (.inr ⟨r, n, rfl, rfl, by simp [converterEdge, hl, hc]⟩)

/-- Everything an edge can do. -/
theorem clockEdge_cases (p : InPorts) (s : State) :
    (p.rst = true ∧ clockEdge p s = resetEvent s) ∨
    (p.rst = false ∧ (s.status = .idle ∨ s.status = .done) ∧ p.start = true ∧
      clockEdge p s = present p s) ∨
    (p.rst = false ∧ (s.status = .idle ∨ s.status = .done) ∧ p.start = false ∧ clockEdge p s = s) ∨
    (p.rst = false ∧ s.status = .busy ∧ clockEdge p s = converterEdge s) ∨
    (p.rst = false ∧ s.status = .fault ∧ clockEdge p s = s) := by
  cases hr : p.rst <;> cases hs : s.status <;> cases hp : p.start <;> simp [clockEdge, hr, hs, hp]

/-- While the host waits, a BUSY request that has a result completes, and nothing else happens. -/
theorem awaitConverter_cases (s : State) :
    (∃ r, s.status = .busy ∧ latchedResult s = some r ∧ awaitConverter s = publish r s) ∨
    ((s.status ≠ .busy ∨ latchedResult s = none) ∧ awaitConverter s = s) := by
  cases hs : s.status <;> cases hl : latchedResult s <;> simp [awaitConverter, hs, hl]

/-- CONVERT is refused, or it is an edge that presents it and then the converter's move. -/
theorem exec_cases (v : Word) (t e : Int) (s : State) :
    ((fitsPort t && fitsPort e) = false ∧ exec (.convert v t e) s = .refused .operandNotPresentable) ∨
    ((fitsPort t && fitsPort e) = true ∧
      exec (.convert v t e) s = .next (awaitConverter (clockEdge (presentPorts v t e) s))) := by
  cases h : fitsPort t && fitsPort e <;> simp [exec, execConvert, h]

/-- The two latched widths are read from any latch that holds them. -/
theorem latchedResult_congr {s u : State} (hv : u.valueR = s.valueR) (ht : u.totR = s.totR)
    (he : u.expR = s.expR) : latchedResult u = latchedResult s := by
  simp [latchedResult, hv, ht, he]

@[simp] theorem latchedResult_publish (r : Word) (s : State) :
    latchedResult (publish r s) = latchedResult s := rfl

@[simp] theorem latchedResult_raiseFault (c : Cause) (s : State) :
    latchedResult (raiseFault c s) = latchedResult s := rfl

@[simp] theorem latchedResult_accept (p : InPorts) (s : State) :
    latchedResult (accept p s) = convert p.value p.totBits.toNat p.expBits.toNat := rfl

/-- The host's coming moves play no part in the result in the latches. -/
@[simp] theorem latchedResult_host (s : State) (h : List HostMove) :
    latchedResult { s with host := h } = latchedResult s := rfl

/-- Nor does the count of cycles. -/
@[simp] theorem latchedResult_cyclesLeft (s : State) (n : Nat) :
    latchedResult { s with cyclesLeft := n } = latchedResult s := rfl

/-- A presented request neither reads nor changes the host's coming moves. -/
theorem present_host (p : InPorts) (s : State) (h : List HostMove) :
    present p { s with host := h } = { present p s with host := h } := by
  unfold present
  cases paramCheck p.totBits.toNat p.expBits.toNat <;> rfl

/-- Nor does the converter's own move. -/
theorem converterEdge_host (s : State) (h : List HostMove) :
    converterEdge { s with host := h } = { converterEdge s with host := h } := by
  unfold converterEdge
  rw [latchedResult_host]
  cases latchedResult s with
  | none => rfl
  | some r => cases s.cyclesLeft <;> rfl

/-- An edge neither reads nor changes the host's coming moves. -/
theorem clockEdge_host (p : InPorts) (s : State) (h : List HostMove) :
    clockEdge p { s with host := h } = { clockEdge p s with host := h } := by
  unfold clockEdge
  rw [present_host, converterEdge_host]
  obtain ⟨status, cause, result, valueR, totR, expR, cyclesLeft, freeCount, host⟩ := s
  cases p.rst <;> cases status <;> cases p.start <;> rfl

/-! ## Steps and runs -/

/-- A step on a bare edge. -/
theorem step_edge (s : State) (p : InPorts) (rest : List HostMove) :
    step { s with host := .edge p :: rest } = .next { clockEdge p s with host := rest } := by
  rw [step, nextMove_cons]
  simp only [clockEdge_host]

@[simp] theorem runSteps_zero (s : State) : runSteps 0 s = .next s := rfl

/-- A run goes on from the state its first step answers. -/
theorem runSteps_succ {k : Nat} {s u : State} (h : step s = .next u) : runSteps (k + 1) s = runSteps k u := by
  rw [runSteps, h]

/-- A run of the host's interface, by the outcome of its first step. -/
theorem core_run_succ (M : Host.Core) (k : Nat) (s : M.State) :
    M.run (k + 1) s =
      match M.step s with
      | .next u => M.run k u
      | .fault r => .fault r
      | .refused r => .refused r := rfl

/-- A run is the run of the host's interface. -/
theorem runSteps_eq_core_run (k : Nat) (s : State) : runSteps k s = core.run k s := by
  induction k generalizing s with
  | zero => rfl
  | succ k ih =>
    refine Eq.trans ?_ (core_run_succ core k s).symm
    rw [runSteps]
    cases h : step s with
    | next u => rw [show core.step s = .next u from h]; exact ih u
    | fault r => rw [show core.step s = .fault r from h]; rfl
    | refused r => rw [show core.step s = .refused r from h]; rfl

/-- A width that fits its port reads back as itself. -/
theorem toNat_presented {n : Nat} (h : n ≤ 127) : (BitVec.ofInt 7 (n : Int)).toNat = n := by
  simp
  omega

/-- A width that fits its port, as a natural number. -/
theorem fitsPort_natCast {n : Nat} (h : n ≤ 127) : fitsPort (n : Int) = true := by
  simp [fitsPort]
  omega

/-! ## Everything a step can do -/

/-- A step on a request word is an edge that presents its operands, and then the converter's move. -/
theorem step_request {s : State} {req : RequestWord} {rest : List HostMove}
    (h : s.host = .request req :: rest) :
    ∃ p : InPorts, p.rst = false ∧ p.start = true ∧ s.presented = some (p.value, p.totBits, p.expBits) ∧
      step s = .next (awaitConverter (clockEdge p { s with host := rest })) := by
  have hf (w : Width) : fitsPort (w.toNat : Int) = true := fitsPort_natCast (by omega)
  refine ⟨presentPorts (valueField req) (totBitsField req).toNat (expBitsField req).toNat, rfl, rfl, ?_, ?_⟩
  · simp [State.presented, HostMove.operands, presentPorts, h]
  · rw [step, nextMove_of_cons h]
    simp [decode, exec, execConvert, hf]

/-- The transition behind every step: what it needs of the state and of the host's next move, and what it
writes. A step is a reset, an acceptance, a whole transaction, a fault, a completion, one cycle counted
down, or nothing but the move taken. -/
theorem step_cases {s u : State} (h : step s = .next u) :
    (s.takesReset = true ∧ u = resetEvent { s with host := s.host.tail }) ∨
    (∃ p, s.Ready ∧ s.takesReset = false ∧ s.presented = some (p.value, p.totBits, p.expBits) ∧
      LegalParams p.totBits.toNat p.expBits.toNat ∧ u = accept p { s with host := s.host.tail }) ∨
    (∃ p r req, s.Ready ∧ s.takesReset = false ∧ s.host.head? = some (.request req) ∧
      s.presented = some (p.value, p.totBits, p.expBits) ∧
      LegalParams p.totBits.toNat p.expBits.toNat ∧
      convert p.value p.totBits.toNat p.expBits.toNat = some r ∧
      u = publish r (accept p { s with host := s.host.tail })) ∨
    (∃ v t e, s.Ready ∧ s.takesReset = false ∧ s.presented = some (v, t, e) ∧
      ¬ LegalParams t.toNat e.toNat ∧
      u = raiseFault (paramCheck t.toNat e.toNat) { s with host := s.host.tail }) ∨
    (∃ r, s.status = .busy ∧ s.takesReset = false ∧ latchedResult s = some r ∧
      u = publish r { s with host := s.host.tail }) ∨
    (∃ n, s.status = .busy ∧ s.takesReset = false ∧ s.cyclesLeft = n + 1 ∧
      u = { s with host := s.host.tail, cyclesLeft := n }) ∨
    (s.takesReset = false ∧ u = { s with host := s.host.tail }) := by
  rcases hh : s.host with _ | ⟨mv, rest⟩
  · rw [step, nextMove_of_nil hh] at h
    cases h
    have h0 : ({ s with host := [] } : State) = s := by rw [← hh]
    have hr : s.takesReset = false := by simp [State.takesReset, hh]
    rw [List.tail_nil, h0]
    rcases clockEdge_cases idlePorts s with ⟨c, _⟩ | ⟨_, _, c, _⟩ | ⟨_, _, _, a⟩ | ⟨_, b, a⟩ | ⟨_, _, a⟩
    · cases c
    · cases c
    · simp [a, hr]
    · rcases converterEdge_cases s with ⟨_, c⟩ | ⟨r, d, _, c⟩ | ⟨r, n, _, d, c⟩ <;> rw [a, c]
      · simp [hr]
      · simp [hr, b, d]
      · have : ({ s with host := [], cyclesLeft := n } : State) = { s with cyclesLeft := n } := by rw [← hh]
        exact .inr (.inr (.inr (.inr (.inr (.inl ⟨n, b, hr, d, this.symm⟩)))))
    · simp [a, hr]
  · rw [List.tail_cons]
    cases mv with
    | edge p =>
      rw [step, nextMove_of_cons hh] at h
      cases h
      rcases clockEdge_cases p { s with host := rest } with
        ⟨c, a⟩ | ⟨c, b, d, a⟩ | ⟨c, b, d, a⟩ | ⟨c, b, a⟩ | ⟨c, b, a⟩ <;> rw [a]
      · exact .inl ⟨by simp [State.takesReset, HostMove.noReset, hh, c], rfl⟩
      · have hr : s.takesReset = false := by simp [State.takesReset, HostMove.noReset, hh, c]
        have hp : s.presented = some (p.value, p.totBits, p.expBits) := by
          simp [State.presented, HostMove.operands, hh, c, d]
        rcases present_cases p { s with host := rest } with ⟨l, f⟩ | ⟨l, f⟩ <;> rw [f]
        · exact .inr (.inl ⟨p, b, hr, hp, l, rfl⟩)
        · exact .inr (.inr (.inr (.inl ⟨_, _, _, b, hr, hp, l, rfl⟩)))
      all_goals have hr : s.takesReset = false := by simp [State.takesReset, HostMove.noReset, hh, c]
      · simp [hr]
      · rcases converterEdge_cases { s with host := rest } with ⟨_, f⟩ | ⟨r, d, _, f⟩ | ⟨r, n, _, d, f⟩ <;>
          rw [f]
        · simp [hr]
        · exact .inr (.inr (.inr (.inr (.inl ⟨r, b, hr, d, rfl⟩))))
        · exact .inr (.inr (.inr (.inr (.inr (.inl ⟨n, b, hr, d, rfl⟩)))))
      · simp [hr]
    | request req =>
      have hr : s.takesReset = false := by simp [State.takesReset, HostMove.noReset, hh]
      obtain ⟨p, c, d, hp, e⟩ := step_request hh
      rw [e] at h
      cases h
      rcases clockEdge_cases p { s with host := rest } with
        ⟨c', a⟩ | ⟨_, b, _, a⟩ | ⟨_, b, d', a⟩ | ⟨_, b, a⟩ | ⟨_, b, a⟩ <;> rw [a]
      · simp [c] at c'
      · rcases present_cases p { s with host := rest } with ⟨l, f⟩ | ⟨l, f⟩ <;> rw [f]
        · rcases awaitConverter_cases (accept p { s with host := rest }) with ⟨r, _, k, m⟩ | ⟨_, m⟩ <;> rw [m]
          · exact .inr (.inr (.inl ⟨p, r, req, b, hr, rfl, hp, l, k, rfl⟩))
          · exact .inr (.inl ⟨p, b, hr, hp, l, rfl⟩)
        · exact .inr (.inr (.inr (.inl ⟨_, _, _, b, hr, hp, l, rfl⟩)))
      · simp [d] at d'
      · rcases converterEdge_cases { s with host := rest } with ⟨k, f⟩ | ⟨r, k, _, f⟩ | ⟨r, n, k, _, f⟩ <;>
          rw [f]
        · simp_all [awaitConverter]
        · exact .inr (.inr (.inr (.inr (.inl ⟨r, b, hr, k, rfl⟩))))
        · refine .inr (.inr (.inr (.inr (.inl ⟨r, b, hr, k, ?_⟩))))
          rcases awaitConverter_cases { s with host := rest, cyclesLeft := n } with ⟨r', _, k', m⟩ | ⟨k' | k', _⟩
          · cases k'.symm.trans k
            exact m
          · exact absurd b k'
          · cases k'.symm.trans k
      · simp [awaitConverter, show s.status = .fault from b, hr]

end Sys2Proof.Machine
end

