-- ==== Sys2Proof/Laws/Loops.lean ====
section
/-! SUPPORT. What the two loops of step 6 compute. -/

namespace Sys2Proof.Machine

/-- Below `2^53`, bit 52 says whether the number reaches `2^52`. -/
theorem getLsbD_52 {m : Word} (h : m.toNat < 2 ^ 53) : m.getLsbD 52 = decide (2 ^ 52 ≤ m.toNat) := by
  rw [← BitVec.testBit_toNat, Nat.testBit_eq_decide_div_mod_eq]
  congr 1
  apply propext
  omega

/-- The scan loop makes the `k` shifts that bring the leading one to bit 52. -/
theorem scanLoop_eq : ∀ (fuel : Nat) (m : Word) (sc k : Nat), m ≠ 0 → m.toNat < 2 ^ 53 →
    2 ^ 52 ≤ m.toNat * 2 ^ k → m.toNat * 2 ^ k < 2 ^ 53 → k < fuel →
    scanLoop fuel m sc = some (m <<< k, sc + k)
  | 0, _, _, _, _, _, _, _, h => absurd h (Nat.not_lt_zero _)
  | fuel + 1, m, sc, k, h0, h1, h2, h3, h4 => by
    rw [scanLoop, getLsbD_52 h1]
    cases k with
    | zero =>
      have : 2 ^ 52 ≤ m.toNat := by simpa using h2
      rw [if_pos (by simpa using this)]
      simp
    | succ k =>
      have hp : 1 ≤ 2 ^ k := Nat.one_le_two_pow
      have h2' : 2 ^ 52 ≤ m.toNat * 2 * 2 ^ k := by rw [pow_succ 2 k] at h2; linarith
      have h3' : m.toNat * 2 * 2 ^ k < 2 ^ 53 := by rw [pow_succ 2 k] at h3; linarith
      have hlt : m.toNat < 2 ^ 52 := by nlinarith
      have e1 : (m <<< 1).toNat = m.toNat * 2 := by
        simp only [BitVec.toNat_shiftLeft, Nat.shiftLeft_eq]
        omega
      have hne : m <<< 1 ≠ 0 := by
        intro h
        rw [h] at e1
        exact h0 (BitVec.eq_of_toNat_eq (by simp at e1 ⊢; omega))
      rw [if_neg (by simp; omega),
        scanLoop_eq fuel (m <<< 1) (sc + 1) k hne (by omega) (by rwa [e1]) (by rwa [e1]) (by omega),
        ← BitVec.shiftLeft_add, Nat.add_comm 1 k, Nat.add_assoc, Nat.add_comm 1 k]

/-- The demotion loop makes `n` right shifts from `bias = -n`. -/
theorem demoteLoop_eq : ∀ (n : Nat) (m : Word) (b : Int), b = -(n : Int) → demoteLoop n m b = (m >>> n, 0)
  | 0, m, b, h => by
    have : b = 0 := by omega
    simp [demoteLoop, this]
  | n + 1, m, b, h => by
    rw [demoteLoop, if_neg (by omega), demoteLoop_eq n _ _ (by omega), ← BitVec.shiftRight_add, Nat.add_comm]

end Sys2Proof.Machine
end

