-- ==== Sys2Proof/Laws/PerInstr.lean ====
section
/-! SUPPORT. Statements about every instruction, one lemma per constructor. -/

namespace Sys2Proof.Laws.WordLayout

/-- The request word of a well-formed instruction, as a number, is `(t << 71) | (e << 64) | value` (R46):
the three operands at their weights. -/
def Statement : Instr → Prop
  | .convert value totBits expBits =>
    (Instr.convert value totBits expBits).wf = true →
      ((encode (.convert value totBits expBits)).toNat : Int) =
        totBits * 2 ^ 71 + expBits * 2 ^ 64 + value.toNat

theorem convert (value : Word) (totBits expBits : Int) : Statement (.convert value totBits expBits) := by
  intro h
  simp only [Instr.wf, fitsPort, Bool.and_eq_true, decide_eq_true_eq] at h
  have hv := value.isLt
  simp only [encode, BitVec.toNat_append, BitVec.toNat_ofInt]
  rw [← Nat.shiftLeft_add_eq_or_of_lt (by omega), ← Nat.shiftLeft_add_eq_or_of_lt (by omega)]
  simp only [Nat.shiftLeft_eq]
  omega

end Sys2Proof.Laws.WordLayout
end

