-- ==== Sys2Proof/Tests/Slice0.lean ====
section
/-! SUPPORT. Tests: expected values are those of spec/95_test_vectors.md and of the rules' own examples. Then, for every statement with hypotheses, values that meet them. -/

namespace Sys2Proof.Tests

open Sys2Proof.Machine

/-! ## Small states -/

/-- A BUSY block with the given latches and cycles left. -/
def busyWith (value : Word) (totBits expBits : Width) (cyclesLeft : Nat) : State :=
  { State.reset with
    status := .busy, valueR := value, totR := totBits, expR := expBits, cyclesLeft := cyclesLeft }

/-- A block in FAULT after an illegal `totBits`. -/
def faulted : State := { State.reset with status := .fault, cause := .invalidTotalWidth }

/-- A block in DONE with the result of `convert(1.0, 8, 4)`. -/
def doneWith38 : State :=
  { State.reset with status := .done, result := 0x38, valueR := 0x3FF0000000000000, totR := 8, expR := 4 }

/-- Port levels that present `convert(1.0, totBits, expBits)`. -/
def presentOne (totBits expBits : Width) : InPorts :=
  { rst := false, start := true, value := 0x3FF0000000000000, totBits := totBits, expBits := expBits }

/-- Port levels with `rst = 1`, and a request beside it. -/
def resetPorts : InPorts := { presentOne 8 4 with rst := true }

/-! ## Well-formedness: an ill-formed term for each check -/

theorem test_wf_refuses_negative_tot : (Instr.convert 0 (-1) 4).wf = false := by decide
theorem test_wf_refuses_large_tot : (Instr.convert 0 128 4).wf = false := by decide
theorem test_wf_refuses_negative_exp : (Instr.convert 0 8 (-1)).wf = false := by decide
theorem test_wf_refuses_large_exp : (Instr.convert 0 8 128).wf = false := by decide
theorem test_wf_accepts_illegal_widths : (Instr.convert 0 0 127).wf = true := by decide

/-! ## Decoding: words written out from R46 (`tot_bits` 77:71, `exp_bits` 70:64, `value` 63:0) -/

/-- Bit by bit: 0001000, 0000100, and 1.0 = 0 01111111111 0...0. -/
theorem test_decode_bits :
    decode 0b000100000001000011111111110000000000000000000000000000000000000000000000000000#78 =
      .convert 0x3FF0000000000000 8 4 := by decide

/-- 95_test_vectors.md 2.9, row (127, 127), and 2.4, row −1.5 with (64, 62). -/
theorem test_decode_vectors :
    decode 0x3FFF3FF0000000000000#78 = .convert 0x3FF0000000000000 127 127 ∧
    decode 0x203EBFF8000000000000#78 = .convert 0xBFF8000000000000 64 62 := by decide

/-- R51: the greatest request word is decoded, the next number is none. -/
theorem test_decode_length :
    decodeTableWord 80 (2 ^ 78 - 1) = some (.convert 0xFFFFFFFFFFFFFFFF 127 127) ∧
    decodeTableWord 80 (2 ^ 78) = none := by decide

/-! ## The cells: 95_test_vectors.md 2.1 -/

theorem test_getField :
    getField 63 1 0xC000000000000000 = 1 ∧ getField 62 11 0xFFF8000000000000 = 0x7FF ∧
    getField 51 52 0xFFFFFFFFFFFFFFFF = 0xFFFFFFFFFFFFF := by decide

theorem test_setBit :
    setBit 7 true 0 = 0x80 ∧ setBit 2 true 0x78 = 0x7C ∧ setBit 63 true 0 = 0x8000000000000000 := by decide

theorem test_setField :
    setField 6 4 0xFFFFFFFFFFFFFFFF 0x80 = 0xF8 ∧ setField 2 3 0xC 0 = 0x04 ∧
    setField 62 62 0x1FFFFFFFFFFFFFFF 0 = 0x3FFFFFFFFFFFFFFE := by decide

/-! ## The function, path by path: 95_test_vectors.md 1.1 and 2.2 to 2.8 -/

/-- S1 to S5. -/
theorem test_source_scenarios :
    convert 0x3FF0000000000000 8 4 = some 0x38 ∧ convert 0xC000000000000000 8 4 = some 0xC0 ∧
    convert 0x0000000000000000 8 4 = some 0x00 ∧ convert 0x4202A05F20000000 8 4 = some 0x78 ∧
    convert 0x7FF8000000000000 8 4 = some 0x7C := by decide

theorem test_special_values :
    convert 0x8000000000000000 64 2 = some 0x8000000000000000 ∧
    convert 0xFFF0000000000000 8 4 = some 0xF8 ∧ convert 0x7FF0000000000001 8 4 = some 0x7C ∧
    convert 0x7FF8000000000000 64 2 = some 0x7000000000000000 := by decide

theorem test_normal_path :
    convert 0x406FFFAE147AE148 8 4 = some 0x77 ∧ convert 0x3FB999999999999A 32 8 = some 0x3DCCCCCC ∧
    convert 0x3FD3333333333333 56 3 = some 0x0013333333333333 ∧
    convert 0x7FEFFFFFFFFFFFFF 64 62 = some 0x40000000000007FD ∧
    convert 0x0000000000000001 64 12 = some 0x2000000000000000 := by decide

theorem test_overflow_path :
    convert 0x4070000000000000 8 4 = some 0x78 ∧ convert 0x7FEFFFFFFFFFFFFF 8 4 = some 0x78 ∧
    convert 0x4010000000000000 64 2 = some 0x6000000000000000 := by decide

theorem test_subnormal_path :
    convert 0x3F88000000000000 8 4 = some 0x04 ∧ convert 0xBF74000000000000 8 4 = some 0x81 ∧
    convert 0x37A16C262777579C 32 8 = some 0x00002D84 ∧ convert 0x36B8000000000000 32 8 = some 2 ∧
    convert 0x000FFFFFFFFFFFFF 64 11 = some 0x000FFFFFFFFFFFFF := by decide

theorem test_hang_set :
    convert 0x3F80000000000000 8 4 = none ∧ convert 0x3FE0000000000000 64 2 = none ∧
    convert 0x3F80000000000001 8 4 = some 0 := by decide

/-- 2.8: only the mantissa field of a wide result is open. -/
theorem test_wide_result :
    convert 0x4008000000000000 64 2 =
      some (setField 60 61 ((Config.wideAlign 0x8000000000000 61).setWidth 64) 0x4000000000000000) := by
  rfl

/-! ## One step -/

/-- P1, line 2, as the first request after reset. -/
theorem test_step_converts :
    step (State.reset.withFetchWord 80 0x04043FF0000000000000) =
      .next { doneWith38 with freeCount := 1 } := by rfl

/-- P3, line 3: FAULT with cause 1; RESULT and the latches keep their values. -/
theorem test_step_faults :
    step (doneWith38.withFetchWord 80 0x01823FF0000000000000) =
      .next { doneWith38 with status := .fault, cause := .invalidTotalWidth } := by rfl

/-! ## Values that meet the statements' hypotheses -/

theorem witness_wellFormed :
    (Instr.convert 0xFFFFFFFFFFFFFFFF 127 0).wf = true ∧ (Instr.convert 0 0 127).wf = true := by decide

theorem witness_NumberIsReadAsItsOnlyRequest :
    (Instr.convert 0xFFFFFFFFFFFFFFFF 127 127).wf = true ∧
    2 ^ 78 - 1 = (encode (.convert 0xFFFFFFFFFFFFFFFF 127 127)).toNat := by decide

theorem witness_StepRunsPresentedRequest :
    (Instr.convert 0x3FF0000000000000 8 4).wf = true ∧
    (State.reset.withFetchWord 80 0x04043FF0000000000000).host =
      .request (encode (.convert 0x3FF0000000000000 8 4)) :: [] := by decide

theorem witness_StepTakesClockEdge :
    ({ State.reset with host := [.edge (presentOne 8 4)] } : State).host = .edge (presentOne 8 4) :: [] ∧
    State.reset.host = [] := by decide

theorem witness_cellRanges :
    (1 ≤ 64 ∧ 64 ≤ 63 + 1 ∧ 63 ≤ 63) ∧ (1 ≤ 1 ∧ 1 ≤ 0 + 1 ∧ 0 ≤ 63) ∧
    (1 ≤ 61 ∧ 61 ≤ 62 + 1 ∧ 62 ≤ 63 ∧ (1 < 62 + 1 - 61 ∨ 62 < 1) ∧ (63 < 62 + 1 - 61 ∨ 62 < 63)) ∧
    (0 ≠ 63 ∧ 62 ≠ 63) := by decide

theorem witness_legal : LegalParams 4 2 ∧ LegalParams 64 2 ∧ LegalParams 64 62 := by decide

theorem witness_ParameterCheckOrder :
    (3 < 4 ∧ 64 < 65) ∧ ((4 ≤ 4 ∧ 4 ≤ 64) ∧ 4 - 2 < 3) ∧ ((4 ≤ 64 ∧ 64 ≤ 64) ∧ 1 < 2) ∧
    LegalParams 4 2 := by decide

theorem witness_IllegalParametersFault :
    State.reset.Ready ∧ doneWith38.Ready ∧ ¬ LegalParams 3 2 ∧ ¬ LegalParams 65 2 ∧ ¬ LegalParams 127 127 ∧
    ¬ LegalParams 4 1 ∧ ¬ LegalParams 4 3 ∧ ¬ LegalParams 64 63 ∧ 127 ≤ 127 := by decide

theorem witness_UnpresentableWidthIsRefused :
    ((-1 : Int) < 0) ∧ ((127 : Int) < 128) := by decide

/-- On either side of the hang set: `2^-6` with (8, 4) completes, `2^-7` does not; and a wide request. -/
theorem witness_ConvertCompletesWithTableResult :
    State.reset.Ready ∧ doneWith38.Ready ∧
    LegalParams 8 4 ∧ ¬ InHangSet 0x3F90000000000000 8 4 ∧ ¬ InHangSet 0x3F80000000000001 8 4 ∧
    LegalParams 64 2 ∧ ¬ InHangSet 0x3FF0000000000000 64 2 := by decide

theorem witness_HangRequestStaysBusy :
    State.reset.Ready ∧ InHangSet 0x3F80000000000000 8 4 ∧ InHangSet 0x0010000000000000 8 4 ∧
    InHangSet 0x8010000000000000 16 10 := by decide

theorem witness_RequestWhileNotReadyIsLost :
    faulted.status = .fault ∧
    ((busyWith 0x3F80000000000000 8 4 3).status = .busy ∧
      latchedResult (busyWith 0x3F80000000000000 8 4 3) = none) ∧
    ((busyWith 0x3FF0000000000000 8 4 0).status = .busy ∧
      latchedResult (busyWith 0x3FF0000000000000 8 4 0) = some 0x38) ∧
    ((busyWith 0x3FF0000000000000 8 4 3).status = .busy ∧
      latchedResult (busyWith 0x3FF0000000000000 8 4 3) = some 0x38) := by decide

theorem witness_ResultDependsOnOperandsAlone :
    State.reset.Ready ∧ doneWith38.Ready ∧ 8 ≤ 127 ∧ 127 ≤ 127 := by decide

theorem witness_HangSetIsExact :
    LegalParams 16 10 ∧ InHangSet 0x2000000000000000 16 10 ∧ convert 0x2000000000000000 16 10 = none ∧
    ¬ InHangSet 0x2010000000000000 16 10 ∧ LegalParams 64 11 ∧ ¬ InHangSet 0x0010000000000000 64 11 := by
  decide

/-- For SignIsCopied, HighBitsAreZero and each clause of ExponentFieldByPath. -/
theorem witness_resultProperties :
    LegalParams 8 4 ∧
    (convert 0x8000000000000000 8 4 = some 0x80 ∧ expOf 0x8000000000000000 = 0 ∧
      manOf 0x8000000000000000 = 0) ∧
    (convert 0x7FF0000000000000 8 4 = some 0x78 ∧ expOf 0x7FF0000000000000 = 0x7FF) ∧
    (convert 0x3F88000000000000 8 4 = some 0x04 ∧ bias0 0x3F88000000000000 4 = 0 ∧
      expOf 0x3F88000000000000 = 1016) ∧
    (convert 0x3F90000000000000 8 4 = some 0x08 ∧ bias0 0x3F90000000000000 4 = 1) ∧
    (convert 0x406E000000000000 8 4 = some 0x77 ∧ bias0 0x406E000000000000 4 = 2 ^ 4 - 2) ∧
    (convert 0x4070000000000000 8 4 = some 0x78 ∧ bias0 0x4070000000000000 4 = 2 ^ 4 - 1) ∧
    8 ≤ 63 := by decide

theorem witness_SpecialValues :
    (expOf 0x8000000000000000 = 0 ∧ manOf 0x8000000000000000 = 0) ∧
    (expOf 0xFFF0000000000000 = 0x7FF ∧ manOf 0xFFF0000000000000 = 0) ∧
    (expOf 0x7FF0000000000001 = 0x7FF ∧ manOf 0x7FF0000000000001 ≠ 0) := by decide

theorem witness_OverflowIsSignedInfinity :
    LegalParams 16 10 ∧ expOf 0x5FF0000000000000 ≤ 2046 ∧
    1023 + 2 ^ (10 - 1) ≤ expOf 0x5FF0000000000000 ∧ expOnes 10 ≤ bias0 0x5FF0000000000000 10 ∧
    expOf 0x7FEFFFFFFFFFFFFF = 2046 := by decide

theorem witness_ExponentFieldIsMonotone :
    LegalParams 8 4 ∧
    (0x406FFFAE147AE148#64).toNat % 2 ^ 63 ≤ (0xC070000000000000#64).toNat % 2 ^ 63 ∧
    convert 0x406FFFAE147AE148 8 4 = some 0x77 ∧ convert 0xC070000000000000 8 4 = some 0xF8 := by decide

theorem witness_LowMantissaBitsAreDropped :
    LegalParams 8 4 ∧ fmb 8 4 ≤ 52 ∧
    0x406E000000000000#64 >>> (52 - fmb 8 4) = 0x406FFFAE147AE148#64 >>> (52 - fmb 8 4) ∧
    expOf 0x406E000000000000 ≠ 0x7FF ∧ (0x406E000000000000#64).toNat % 2 ^ 63 ≠ 0 ∧
    (0x406FFFAE147AE148#64).toNat % 2 ^ 63 ≠ 0 ∧
    convert 0x406E000000000000 8 4 = some 0x77 ∧ convert 0x406FFFAE147AE148 8 4 = some 0x77 := by decide

/-- Outside the statement's hypotheses (log 12): an infinity, and the NaN that differs from it in bit 0. -/
theorem test_low_bit_tells_nan_from_infinity :
    convert 0x7FF0000000000000 8 4 = some 0x78 ∧ convert 0x7FF0000000000001 8 4 = some 0x7C := by decide

theorem witness_DoubleLayoutIsIdentity :
    ¬ (expOf 0x7FF0000000000000 = 0x7FF ∧ manOf 0x7FF0000000000000 ≠ 0) ∧
    (expOf 0x7FF0000000000001 = 0x7FF ∧ manOf 0x7FF0000000000001 ≠ 0) := by decide

theorem witness_RebiasRanges :
    LegalParams 4 2 ∧ LegalParams 64 62 ∧ expOf 0x000FFFFFFFFFFFFF ≤ 2046 ∧
    expOf 0x7FEFFFFFFFFFFFFF ≤ 2046 := by decide

theorem witness_PathByExponent :
    (LegalParams 16 10 ∧ expOf 0x2000000000000000 = 512) ∧ (LegalParams 16 11 ∧ expOf 0x0010000000000000 = 1) ∧
    (LegalParams 64 12 ∧ expOf 0x0000000000000001 = 0) := by decide

theorem witness_ScanFindsTheLeadingOne :
    (1 : Word) ≠ 0 ∧ (1 : Word).toNat < 2 ^ 52 ∧ (0xFFFFFFFFFFFFF : Word) ≠ 0 ∧
    (0xFFFFFFFFFFFFF : Word).toNat < 2 ^ 52 := by decide

theorem witness_BoundaryArmIsUnreachable :
    (1 : Word).toNat < 2 ^ 52 ∧ scan 1 = some (0x10000000000000, 52) ∧ (-1022 : Int) ≤ -1022 ∧
    (-1022 : Int) ≤ 0 ∧ scan 0x8000000000000 = some (0x10000000000000, 1) ∧ (-1022 : Int) ≤ 0 := by decide

theorem witness_DemoteShiftsOutTheBias :
    (-1 : Int) < 0 ∧ (0x10000000000000 : Word).toNat < 2 ^ 53 ∧ (-53 : Int) < 0 ∧ (-53 : Int) ≤ -53 := by
  decide

theorem witness_SubnormalClosedForm :
    (1 : Word) ≠ 0 ∧ (1 : Word).toNat < 2 ^ 52 ∧ (0 : Int) ≤ 0 ∧ LegalParams 8 4 ∧ fmb 8 4 ≤ 52 ∧
    LegalParams 64 11 ∧ fmb 64 11 ≤ 52 := by decide

theorem witness_RequestEdge :
    (presentOne 8 4).rst = false ∧
    (State.reset.Ready ∧ (presentOne 8 4).start = true ∧
      LegalParams (presentOne 8 4).totBits.toNat (presentOne 8 4).expBits.toNat) ∧
    (doneWith38.Ready ∧ (presentOne 8 7).start = true ∧ (presentOne 8 7).rst = false ∧
      ¬ LegalParams (presentOne 8 7).totBits.toNat (presentOne 8 7).expBits.toNat) ∧
    (doneWith38.Ready ∧ idlePorts.start = false ∧ idlePorts.rst = false) ∧
    faulted.status = .fault ∧ (busyWith 0x3FF0000000000000 8 4 0).status = .busy := by decide

theorem witness_BusyRequestCompletes :
    (busyWith 0x3FF0000000000000 8 4 1).status = .busy ∧
    latchedResult (busyWith 0x3FF0000000000000 8 4 1) = some 0x38 ∧
    (∀ p ∈ [presentOne 8 4, idlePorts], p.rst = false) ∧
    [presentOne 8 4].length ≤ (busyWith 0x3FF0000000000000 8 4 1).cyclesLeft ∧
    [presentOne 8 4, idlePorts].length = (busyWith 0x3FF0000000000000 8 4 1).cyclesLeft + 1 := by decide

theorem witness_TransactionIsClockedRun :
    fitsPort 0 = true ∧ fitsPort 127 = true ∧ fitsPort 8 = true ∧ fitsPort 4 = true := by decide

theorem witness_ResetEdge : resetPorts.rst = true ∧ resetPorts.start = true := by decide

theorem witness_OutputsAndStatusWord :
    State.reset.status = .idle ∧ (busyWith 0 8 4 0).status = .busy ∧ doneWith38.status = .done ∧
    faulted.status = .fault ∧ doneWith38.cause = .noFault ∧ faulted.cause = .invalidTotalWidth ∧
    ({ faulted with cause := .invalidExponentWidth } : State).cause = .invalidExponentWidth := by decide

theorem witness_FaultAndStuckHoldUntilReset :
    faulted.status = .fault ∧
    ((busyWith 0x3F80000000000000 8 4 3).status = .busy ∧
      latchedResult (busyWith 0x3F80000000000000 8 4 3) = none) ∧
    (∀ mv ∈ [HostMove.request 0x04043FF0000000000000, .edge (presentOne 8 4)], mv.noReset = true) := by
  decide

/-- A change of STATUS, RESULT and the latches by a transaction; of STATUS and RESULT by a completion from BUSY;
of CAUSE by a fault; of RESULT and of CAUSE by a reset. The host moves are those the statement names. -/
theorem witness_StateIsWrittenOnlyByItsTransitions :
    (step (State.reset.withFetchWord 80 0x04043FF0000000000000) = .next { doneWith38 with freeCount := 1 } ∧
      doneWith38.status ≠ State.reset.status ∧ doneWith38.result ≠ State.reset.result ∧
      doneWith38.valueR ≠ State.reset.valueR ∧
      (State.reset.withFetchWord 80 0x04043FF0000000000000).presented = some (0x3FF0000000000000, 8, 4)) ∧
    (step (busyWith 0x3FF0000000000000 8 4 0) = .next doneWith38 ∧
      doneWith38.result ≠ (busyWith 0x3FF0000000000000 8 4 0).result) ∧
    (step { State.reset with host := [.edge (presentOne 3 4)] } = .next { faulted with host := [] } ∧
      faulted.cause ≠ State.reset.cause ∧
      ({ State.reset with host := [.edge (presentOne 3 4)] } : State).presented =
        some (0x3FF0000000000000, 3, 4)) ∧
    (step { doneWith38 with host := [.edge resetPorts] } = .next (resetEvent doneWith38) ∧
      (resetEvent doneWith38).result ≠ doneWith38.result ∧
      ({ doneWith38 with host := [.edge resetPorts] } : State).takesReset = true) ∧
    (step { faulted with host := [.edge resetPorts] } = .next (resetEvent faulted) ∧
      (resetEvent faulted).cause ≠ faulted.cause) :=
  ⟨⟨rfl, by decide, by decide, by decide, by decide⟩, ⟨rfl, by decide⟩, ⟨rfl, by decide, by decide⟩,
    ⟨rfl, by decide, by decide⟩, ⟨rfl, by decide⟩⟩

theorem witness_StepKeepsConsistent :
    (State.reset.withFetchWord 80 0x04043FF0000000000000).Consistent ∧
    step (State.reset.withFetchWord 80 0x04043FF0000000000000) = .next { doneWith38 with freeCount := 1 } :=
  ⟨⟨by decide, by decide, by decide, by decide⟩, rfl⟩

/-- The invariant is met in BUSY, DONE and FAULT too. -/
theorem witness_Consistent :
    (busyWith 0x3FF0000000000000 8 4 2).Consistent ∧ doneWith38.Consistent ∧ faulted.Consistent :=
  ⟨⟨by decide, by decide, by decide, by decide⟩, ⟨by decide, by decide, by decide, by decide⟩,
    ⟨by decide, by decide, by decide, by decide⟩⟩

end Sys2Proof.Tests
end

section
/-! PROOFS. The invariant of the state (R15, R22, R34, R63), transition by transition and then for a step. -/

namespace Sys2Proof.Machine

namespace State.Consistent

/-- Outside FAULT no cause is recorded (R15). -/
theorem cause_eq_noFault {s : State} (hs : s.Consistent) (h : s.status ≠ .fault) :
    s.cause = .noFault :=
  not_not.mp (mt hs.cause_fault.mp h)

/-- The invariant speaks of the spec's own fields: taking a host move leaves it. -/
theorem setHost {s : State} (hs : s.Consistent) (moves : List HostMove) :
    { s with host := moves }.Consistent :=
  ⟨hs.busy_legal, hs.done_result, hs.idle_result, hs.cause_fault⟩

/-- Counting a cycle down leaves the invariant. -/
theorem setCyclesLeft {s : State} (hs : s.Consistent) (n : Nat) :
    { s with cyclesLeft := n }.Consistent :=
  ⟨hs.busy_legal, hs.done_result, hs.idle_result, hs.cause_fault⟩

/-- The reset event makes any state consistent (R121), whatever it leaves in the latches. -/
theorem of_resetEvent (s : State) : (resetEvent s).Consistent where
  busy_legal h := by cases h
  done_result h := by cases h
  idle_result _ := resetEvent_result s
  cause_fault := by simp

/-- Acceptance needs legal widths and a state with no fault recorded (R63). -/
theorem of_accept {p : InPorts} {s : State} (hc : s.cause = .noFault)
    (hl : LegalParams p.totBits.toNat p.expBits.toNat) : (accept p s).Consistent where
  busy_legal _ := hl
  done_result h := by cases h
  idle_result h := by cases h
  cause_fault := by simp [hc]

/-- Completion publishes the result of the request in the latches (R64). -/
theorem of_publish {r : Word} {s : State} (hc : s.cause = .noFault)
    (hr : latchedResult s = some r) : (publish r s).Consistent where
  busy_legal h := by cases h
  done_result _ := hr
  idle_result h := by cases h
  cause_fault := by simp [hc]

/-- The fault transition records a cause with FAULT (R111). -/
theorem of_raiseFault {c : Cause} (hc : c ≠ .noFault) (s : State) :
    (raiseFault c s).Consistent where
  busy_legal h := by cases h
  done_result h := by cases h
  idle_result h := by cases h
  cause_fault := by simp [hc]

end State.Consistent

/-- A ready block is not in FAULT. -/
theorem State.Ready.ne_fault {s : State} (h : s.Ready) : s.status ≠ .fault := by
  rcases h with h | h <;> simp [h]

/-- Settles O47: every transition of `step_cases` has its own lemma above. -/
theorem stepKeepsConsistent : Obligations.StepKeepsConsistent := by
  intro s u hs hstep
  have hs' := hs.setHost s.host.tail
  rcases step_cases hstep with ⟨-, rfl⟩ | ⟨p, hready, -, -, hl, rfl⟩ |
    ⟨p, r, req, hready, -, -, -, hl, hr, rfl⟩ | ⟨v, t, e, -, -, -, hl, rfl⟩ |
    ⟨r, hbusy, -, hr, rfl⟩ | ⟨n, -, -, -, rfl⟩ | ⟨-, rfl⟩
  · -- reset
    exact .of_resetEvent _
  · -- acceptance
    exact .of_accept (hs.cause_eq_noFault hready.ne_fault) hl
  · -- whole transaction
    exact .of_publish (hs.cause_eq_noFault hready.ne_fault) hr
  · -- fault
    exact .of_raiseFault (paramCheck_ne_noFault hl) _
  · -- completion
    exact .of_publish (hs.cause_eq_noFault (by simp [hbusy])) hr
  · -- one cycle counted down
    exact hs'.setCyclesLeft n
  · -- nothing but the move taken
    exact hs'

/-- Settles O46. -/
theorem resetIsConsistent : Obligations.ResetIsConsistent where
  busy_legal h := by cases h
  done_result h := by cases h
  idle_result _ := rfl
  cause_fault := by simp [State.reset]

end Sys2Proof.Machine
end

section
/-! PROOFS. CONVERT presented to a ready block: the three ways it can end (R63 to R66, R111). -/

namespace Sys2Proof.Machine

/-- Legal operands on the ports are accepted. -/
theorem present_of_legal {p : InPorts} (hl : LegalParams p.totBits.toNat p.expBits.toNat) (s : State) :
    present p s = accept p s := by
  rcases present_cases p s with ⟨-, h⟩ | ⟨hl', -⟩
  · exact h
  · exact absurd hl hl'

/-- Illegal operands on the ports fault with the cause the check gives. -/
theorem present_of_illegal {p : InPorts} (hl : ¬ LegalParams p.totBits.toNat p.expBits.toNat)
    (s : State) : present p s = raiseFault (paramCheck p.totBits.toNat p.expBits.toNat) s := by
  rcases present_cases p s with ⟨hl', -⟩ | ⟨-, h⟩
  · exact absurd hl' hl
  · exact h

/-- A ready block takes the request on its ports. -/
theorem clockEdge_of_ready {p : InPorts} {s : State} (hs : s.Ready) (hrst : p.rst = false)
    (hstart : p.start = true) : clockEdge p s = present p s := by
  rcases hs with hs | hs <;> simp [clockEdge, hrst, hstart, hs]

/-- The wait leaves a state that is not BUSY. -/
theorem awaitConverter_of_ne_busy {s : State} (hs : s.status ≠ .busy) : awaitConverter s = s := by
  rcases awaitConverter_cases s with ⟨_, h, -, -⟩ | ⟨-, h⟩
  · exact absurd h hs
  · exact h

/-- The wait leaves a request that has no result (R66). -/
theorem awaitConverter_of_none {s : State} (hl : latchedResult s = none) : awaitConverter s = s := by
  rcases awaitConverter_cases s with ⟨_, -, h, -⟩ | ⟨-, h⟩
  · simp [hl] at h
  · exact h

/-- The wait ends a BUSY request that has a result with its completion (R64). -/
theorem awaitConverter_of_some {s : State} {r : Word} (hs : s.status = .busy)
    (hl : latchedResult s = some r) : awaitConverter s = publish r s := by
  simp [awaitConverter, hs, hl]

section

variable {t e : Nat} (ht : t ≤ 127) (he : e ≤ 127) (v : Word)

include ht he

/-- The widths on the ports are the operands' widths. -/
theorem toNat_presentPorts : (presentPorts v t e).totBits.toNat = t ∧
    (presentPorts v t e).expBits.toNat = e :=
  ⟨toNat_presented ht, toNat_presented he⟩

/-- The request in the latches after acceptance is the one that was presented. -/
theorem latchedResult_accept_presentPorts (s : State) :
    latchedResult (accept (presentPorts v t e) s) = convert v t e := by
  obtain ⟨htot, hexp⟩ := toNat_presentPorts ht he v
  rw [latchedResult_accept, htot, hexp, presentPorts]

variable {s : State} (hs : s.Ready)

include hs

/-- On a ready block CONVERT is the request taken at one edge, and then the converter's move. -/
theorem exec_of_ready :
    exec (.convert v t e) s = .next (awaitConverter (present (presentPorts v t e) s)) := by
  rw [← clockEdge_of_ready hs rfl rfl]
  simp [exec, execConvert, fitsPort_natCast ht, fitsPort_natCast he]

/-- Illegal widths end in the fault transition (R65, R111). -/
theorem exec_of_ready_of_illegal (hl : ¬ LegalParams t e) :
    exec (.convert v t e) s = .next (raiseFault (paramCheck t e) s) := by
  obtain ⟨htot, hexp⟩ := toNat_presentPorts ht he v
  have hp := present_of_illegal (p := presentPorts v t e) (by rwa [htot, hexp]) s
  rw [htot, hexp] at hp
  rw [exec_of_ready ht he v hs, hp, awaitConverter_of_ne_busy (by simp)]

/-- Legal widths are accepted, and the converter then makes its move (R63). -/
theorem exec_of_ready_of_legal (hl : LegalParams t e) :
    exec (.convert v t e) s = .next (awaitConverter (accept (presentPorts v t e) s)) := by
  obtain ⟨htot, hexp⟩ := toNat_presentPorts ht he v
  rw [exec_of_ready ht he v hs, present_of_legal (by rwa [htot, hexp])]

/-- A legal request without a result stays in BUSY (R66). -/
theorem exec_of_ready_of_none (hl : LegalParams t e) (hr : convert v t e = none) :
    exec (.convert v t e) s = .next (accept (presentPorts v t e) s) := by
  rw [exec_of_ready_of_legal ht he v hs hl,
    awaitConverter_of_none (by rwa [latchedResult_accept_presentPorts ht he])]

/-- A legal request with a result completes (R64). -/
theorem exec_of_ready_of_some {r : Word} (hl : LegalParams t e) (hr : convert v t e = some r) :
    exec (.convert v t e) s = .next (publish r (accept (presentPorts v t e) s)) := by
  rw [exec_of_ready_of_legal ht he v hs hl,
    awaitConverter_of_some rfl (by rwa [latchedResult_accept_presentPorts ht he])]

end

/-- Settles O18: which of the three ends CONVERT takes, and the result it publishes, are read from the
operands. -/
theorem resultDependsOnOperandsAlone : Obligations.ResultDependsOnOperandsAlone := by
  intro s s' v t e hs hs' ht he
  by_cases hl : LegalParams t e
  · cases hr : convert v t e with
    | none =>
      exact ⟨_, _, exec_of_ready_of_none ht he v hs hl hr, exec_of_ready_of_none ht he v hs' hl hr,
        rfl, fun h => by cases h⟩
    | some r =>
      exact ⟨_, _, exec_of_ready_of_some ht he v hs hl hr, exec_of_ready_of_some ht he v hs' hl hr,
        rfl, fun _ => rfl⟩
  · exact ⟨_, _, exec_of_ready_of_illegal ht he v hs hl, exec_of_ready_of_illegal ht he v hs' hl,
      rfl, fun h => by cases h⟩

end Sys2Proof.Machine
end

section
/-! PROOFS. Who writes STATUS, RESULT, the latches and CAUSE (R12 to R15), and how a step takes an edge. -/

namespace Sys2Proof.Machine

/-- Settles O45: for each transition of `step_cases`, the clause that admits each field it writes; `by simp`
stands where the transition leaves the field as it was. -/
theorem stateIsWrittenOnlyByItsTransitions : Obligations.StateIsWrittenOnlyByItsTransitions := by
  intro s u hstep
  rcases step_cases hstep with ⟨hreset, rfl⟩ | ⟨p, hready, -, hp, hl, rfl⟩ |
    ⟨p, r, req, hready, -, hreq, hp, hl, hr, rfl⟩ | ⟨v, t, e, hready, -, hp, hl, rfl⟩ |
    ⟨r, hbusy, hreset, hr, rfl⟩ | ⟨n, -, -, -, rfl⟩ | ⟨-, rfl⟩
  · -- reset
    exact ⟨fun _ => .inr (.inr (.inr ⟨hreset, rfl⟩)), fun _ => .inr (.inr ⟨hreset, rfl, rfl⟩),
      fun _ => .inr ⟨hreset, rfl⟩, fun _ => .inr ⟨hreset, rfl, rfl⟩⟩
  · -- acceptance
    exact ⟨fun _ => .inl ⟨hready, hp, hl, .inl rfl⟩, by simp,
      fun _ => .inl ⟨hready, hp, hl, .inl rfl⟩, by simp⟩
  · -- whole transaction
    exact ⟨fun _ => .inl ⟨hready, hp, hl, .inr rfl⟩,
      fun _ => .inr (.inl ⟨hready, ⟨req, hreq⟩, hp, rfl, hr⟩),
      fun _ => .inl ⟨hready, hp, hl, .inr rfl⟩, by simp⟩
  · -- fault
    exact ⟨fun _ => .inr (.inl ⟨hready, rfl, v, t, e, hp, hl⟩), by simp, by simp,
      fun _ => .inl ⟨hready, rfl, paramCheck_ne_noFault hl, v, t, e, hp, rfl⟩⟩
  · -- completion
    exact ⟨fun _ => .inr (.inr (.inl ⟨hbusy, hreset, rfl⟩)), fun _ => .inl ⟨hbusy, hreset, rfl, hr⟩,
      by simp, by simp⟩
  · -- one cycle counted down
    exact ⟨by simp, by simp, by simp, by simp⟩
  · -- nothing but the move taken
    exact ⟨by simp, by simp, by simp, by simp⟩

/-- Settles O6: the two shapes of the host's list. -/
theorem stepTakesClockEdge : Obligations.StepTakesClockEdge := by
  intro s p rest
  constructor
  · intro h
    rw [step, nextMove_of_cons h]
  · intro h
    rw [step, nextMove_of_nil h]

end Sys2Proof.Machine
end

section
/-! PROOFS. What the block shows: the output ports (R22) and the status word (R19, R108). -/

namespace Sys2Proof.Machine

/-- One of `busy`, `done` and `fault` is 1 in every status but IDLE. -/
theorem outputs_raised_count (s : State) :
    (outputs s).busy.toNat + (outputs s).done.toNat + (outputs s).fault.toNat =
      if s.status = .idle then 0 else 1 := by
  obtain ⟨status, cause, result, valueR, totR, expR, cyclesLeft, freeCount, host⟩ := s
  cases status <;> rfl

/-- Settles O42. -/
theorem outputsShowTheState : Obligations.OutputsShowTheState := fun s =>
  ⟨beq_iff_eq, beq_iff_eq, beq_iff_eq, rfl, rfl, outputs_raised_count s⟩

/-- Bits 1:0 of the status word are the code of STATUS. -/
theorem statusWord_low (s : State) : (statusWord s).extractLsb' 0 2 = statusCode s.status :=
  BitVec.extractLsb'_append_eq_right

/-- Bits 3:2 of the status word are the code of CAUSE. -/
theorem statusWord_high (s : State) : (statusWord s).extractLsb' 2 2 = causeCode s.cause :=
  BitVec.extractLsb'_append_eq_left

/-- The reserved code 3 is no cause's (R15). -/
theorem causeCode_ne_three (c : Cause) : causeCode c ≠ 3 := by
  cases c <;> decide

/-- Settles O43. -/
theorem statusWordCodes : Obligations.StatusWordCodes := by
  intro s
  rw [statusWord_low, statusWord_high]
  exact ⟨congrArg statusCode, congrArg statusCode, congrArg statusCode, congrArg statusCode,
    congrArg causeCode, congrArg causeCode, congrArg causeCode, causeCode_ne_three s.cause⟩

end Sys2Proof.Machine
end

section
/-! PROOFS. The request word (R46, R50, R51): its fields, and that decoding and encoding are inverse. -/

namespace Sys2Proof

/-- A width fits its port exactly when it is 0 to 127. -/
theorem fitsPort_iff {n : Int} : fitsPort n = true ↔ 0 ≤ n ∧ n ≤ 127 := by
  simp [fitsPort]

/-- A CONVERT is well formed exactly when both widths fit their ports. -/
theorem wf_convert_iff {v : Word} {t e : Int} :
    (Instr.convert v t e).wf = true ↔ fitsPort t = true ∧ fitsPort e = true := by
  simp [Instr.wf]

/-- What 7 bits hold fits a port. -/
theorem fitsPort_toNat (w : Width) : fitsPort (w.toNat : Int) = true :=
  Machine.fitsPort_natCast (by omega)

/-- A width that fits its port reads back as itself. -/
theorem toNat_ofInt_of_fitsPort {n : Int} (h : fitsPort n = true) :
    ((BitVec.ofInt 7 n).toNat : Int) = n := by
  obtain ⟨h0, h127⟩ := fitsPort_iff.mp h
  lift n to Nat using h0
  rw [Machine.toNat_presented (by omega)]

section

variable (v : Word) (t e : Int)

/-- `req[63:0]` of an encoded request is `value`. -/
@[simp] theorem valueField_encode : valueField (encode (.convert v t e)) = v :=
  BitVec.extractLsb'_append_eq_right

/-- `req[70:64]` of an encoded request is `expBits` on 7 bits. -/
@[simp] theorem expBitsField_encode :
    expBitsField (encode (.convert v t e)) = BitVec.ofInt 7 e :=
  (BitVec.extractLsb'_append_eq_of_le (Nat.le_refl 64)).trans BitVec.extractLsb'_append_eq_right

/-- `req[77:71]` of an encoded request is `totBits` on 7 bits. -/
@[simp] theorem totBitsField_encode :
    totBitsField (encode (.convert v t e)) = BitVec.ofInt 7 t :=
  (BitVec.extractLsb'_append_eq_of_le (by decide : 64 ≤ 71)).trans BitVec.extractLsb'_append_eq_left

end

/-- Decoding undoes encoding: each of the three fields reads back as its operand. -/
theorem decode_encode {i : Instr} (h : i.wf = true) : decode (encode i) = i := by
  obtain ⟨v, t, e⟩ := i
  obtain ⟨ht, he⟩ := wf_convert_iff.mp h
  rw [decode, valueField_encode, totBitsField_encode, expBitsField_encode,
    toNat_ofInt_of_fitsPort ht, toNat_ofInt_of_fitsPort he]

/-- Every request word is read as a well-formed instruction (R50). -/
theorem wf_decode (req : RequestWord) : (decode req).wf = true :=
  wf_convert_iff.mpr ⟨fitsPort_toNat _, fitsPort_toNat _⟩

/-- The three fields put side by side are the request word again. -/
theorem fields_append (req : RequestWord) :
    totBitsField req ++ expBitsField req ++ valueField req = req := by
  rw [totBitsField, expBitsField, valueField,
    BitVec.extractLsb'_append_extractLsb'_eq_extractLsb' (rfl : 71 = 64 + 7),
    BitVec.extractLsb'_append_extractLsb'_eq_extractLsb' (rfl : 64 = 0 + 64), BitVec.extractLsb'_eq_self]

/-- Encoding undoes decoding. -/
theorem encode_decode (req : RequestWord) : encode (decode req) = req := by
  rw [decode, encode, BitVec.ofInt_natCast, BitVec.ofInt_natCast, BitVec.ofNat_toNat,
    BitVec.ofNat_toNat, BitVec.setWidth_eq, BitVec.setWidth_eq, fields_append]

/-- A request word is read as `i` exactly when it is the word of `i`. -/
theorem decode_eq_iff {req : RequestWord} {i : Instr} :
    decode req = i ↔ i.wf = true ∧ req = encode i := by
  constructor
  · rintro rfl
    exact ⟨wf_decode req, (encode_decode req).symm⟩
  · rintro ⟨hwf, rfl⟩
    exact decode_encode hwf

/-- A number is read as `i` exactly when it fits in 78 bits and its request word is read as `i` (R51). -/
theorem decodeNumber_eq_ok_iff {n : Nat} {i : Instr} :
    decodeNumber n = .ok i ↔ n < 2 ^ 78 ∧ decode (BitVec.ofNat 78 n) = i := by
  by_cases h : n < 2 ^ 78
  · rw [decodeNumber, if_pos h, Except.ok.injEq, and_iff_right h]
  · rw [decodeNumber, if_neg h]
    simp only [h, reduceCtorEq, false_and]

/-- The number of a word is read as what the word is read as. -/
theorem decodeNumber_toNat (req : RequestWord) : decodeNumber req.toNat = .ok (decode req) :=
  decodeNumber_eq_ok_iff.mpr ⟨req.isLt, by rw [BitVec.ofNat_toNat, BitVec.setWidth_eq]⟩

/-- Settles O2. -/
theorem decodeInvertsEncode : Obligations.DecodeInvertsEncode :=
  fun _ h => decode_encode h

/-- Settles O3: within 78 bits a number and its request word are the same thing. -/
theorem numberIsReadAsItsOnlyRequest : Obligations.NumberIsReadAsItsOnlyRequest := by
  intro n i
  rw [decodeNumber_eq_ok_iff, decode_eq_iff]
  constructor
  · rintro ⟨hn, hwf, hreq⟩
    exact ⟨hwf, by rw [← hreq, BitVec.toNat_ofNat, Nat.mod_eq_of_lt hn]⟩
  · rintro ⟨hwf, rfl⟩
    exact ⟨(encode i).isLt, hwf, by rw [BitVec.ofNat_toNat, BitVec.setWidth_eq]⟩

/-- Settles O1: each word is the word of its request (R46), which `decode_eq_iff` reads back. -/
theorem decodeReadsWrittenWords : Obligations.DecodeReadsWrittenWords :=
  ⟨decode_eq_iff.mpr (by decide), decode_eq_iff.mpr (by decide), decode_eq_iff.mpr (by decide),
    decode_eq_iff.mpr (by decide)⟩

end Sys2Proof
end

section
/-! PROOFS. How a step takes a request word, and when CONVERT is refused (R46, R47, R50, R125). -/

namespace Sys2Proof.Machine

/-- A step on a request word runs the instruction it is read as. -/
theorem step_of_request {s : State} {req : RequestWord} {rest : List HostMove}
    (h : s.host = .request req :: rest) : step s = exec (decode req) { s with host := rest } := by
  rw [step, nextMove_of_cons h]

/-- Settles O4. -/
theorem stepRunsPresentedRequest : Obligations.StepRunsPresentedRequest := by
  intro s i rest hwf hhost
  rw [step_of_request hhost, decode_encode hwf]

/-- A request word keeps all its bits in the 80 bits of an opcode-table word. -/
theorem toNat_mod_table (req : RequestWord) : req.toNat % 2 ^ 80 = req.toNat :=
  Nat.mod_eq_of_lt (req.isLt.trans (by decide))

/-- Placing a request word puts it before the host's other moves. -/
theorem withFetchWord_toNat (s : State) (req : RequestWord) :
    s.withFetchWord 80 req.toNat = { s with host := .request req :: s.host } := by
  rw [State.withFetchWord, toNat_mod_table, BitVec.ofNat_toNat, BitVec.setWidth_eq]

/-- The table's decoder reads the number of a word as what the word is read as. -/
theorem decodeTableWord_toNat (req : RequestWord) :
    decodeTableWord 80 req.toNat = some (decode req) := by
  rw [decodeTableWord, toNat_mod_table, decodeNumber_toNat]

/-- Settles O5. -/
theorem placedWordRunsNext : Obligations.PlacedWordRunsNext := by
  intro s i hwf
  rw [withFetchWord_toNat, decodeTableWord_toNat, decode_encode hwf]
  exact ⟨stepRunsPresentedRequest _ i s.host hwf rfl, rfl⟩

/-- Settles O7: with no move left and on a bare edge the step is that edge (O6); on a request word it is
the transaction, since the widths of a word always fit their ports. -/
theorem everyStepAnswersNext : Obligations.EveryStepAnswersNext := by
  intro s
  rcases hhost : s.host with _ | ⟨p | req, rest⟩
  · exact ⟨_, (stepTakesClockEdge s idlePorts []).2 hhost⟩
  · exact ⟨_, (stepTakesClockEdge s p rest).1 hhost⟩
  · obtain ⟨p, -, -, -, hstep⟩ := step_request hhost
    exact ⟨_, hstep⟩

/-- Settles O14: of the two cases of `exec_cases`, the one that runs needs both widths on their ports. -/
theorem unpresentableWidthIsRefused : Obligations.UnpresentableWidthIsRefused := by
  intro s v t e hout
  rcases exec_cases v t e s with ⟨-, hrefused⟩ | ⟨hfits, -⟩
  · exact hrefused
  · rw [Bool.and_eq_true, fitsPort_iff, fitsPort_iff] at hfits
    omega

/-- Settles O11: the cells' ranges at the three fields, in the widths alone (R39, R41). -/
theorem fieldsOfResultAreAdjacent : Obligations.FieldsOfResultAreAdjacent := by
  rintro t e ⟨ht4, ht64, he2, het⟩
  rw [fmb]
  omega

end Sys2Proof.Machine
end

section
/-! PROOFS. The bit-field cells (R54 to R56), from the cells' bits. -/

namespace Sys2Proof.Machine

/-- A field that is read is the container's field, extended with zeros: R54's two wordings agree. -/
theorem getField_eq_extractLsb' (start width : Nat) (c : Word) :
    getField start width c = (c.extractLsb' (start + 1 - width) width).setWidth 64 := by
  refine BitVec.eq_of_getLsbD_eq fun i hi => ?_
  rw [getLsbD_getField, BitVec.getLsbD_setWidth, BitVec.getLsbD_extractLsb']
  simp [hi, Bool.and_comm]

/-- Reading a field just written gives the low bits of the value: only bits below `width` are read, and
those all lie inside the field that was written. -/
theorem getField_setField (start width : Nat) (value c : Word)
    (hw : width ≤ start + 1) (hs : start ≤ 63) :
    getField start width (setField start width value c) =
      (value.extractLsb' 0 width).setWidth 64 := by
  refine BitVec.eq_of_getLsbD_eq fun i hi => ?_
  rw [getLsbD_getField, getLsbD_setField _ _ _ _ _ hw hs, BitVec.getLsbD_setWidth,
    BitVec.getLsbD_extractLsb']
  by_cases hiw : i < width
  · have hin : start + 1 - width + i ≤ start := by omega
    simp [hi, hiw, hin]
  · simp [hiw]

/-- Writing a field leaves every bit outside it. -/
theorem getLsbD_setField_of_outside (start width : Nat) (value c : Word) (i : Nat)
    (hw : width ≤ start + 1) (hs : start ≤ 63) (hi : i < start + 1 - width ∨ start < i) :
    (setField start width value c).getLsbD i = c.getLsbD i := by
  rw [getLsbD_setField _ _ _ _ _ hw hs, if_neg (by omega)]

/-- Settles O10: the field that was written, and then the bits outside it (R56). -/
theorem setFieldReplacesTheField : Obligations.SetFieldReplacesTheField :=
  fun start width value c _ hw hs =>
    ⟨getField_setField start width value c hw hs,
      fun i hi => getLsbD_setField_of_outside start width value c i hw hs hi⟩

/-- Settles O8: the cell is that extraction for every `start` and `width`, so for the range of R53. -/
theorem getFieldReadsTheField : Obligations.GetFieldReadsTheField :=
  fun start width c _ _ _ => getField_eq_extractLsb' start width c

/-- Settles O9: the bits of `setBit` at `pos` and off it (R55). -/
theorem setBitWritesOneBit : Obligations.SetBitWritesOneBit := by
  intro pos b c hpos
  have hbits := fun i => getLsbD_setBit pos b c i (Nat.lt_succ_of_le hpos)
  exact ⟨by rw [hbits, if_pos rfl], fun i hi => by rw [hbits, if_neg hi]⟩

end Sys2Proof.Machine
end

section
/-! PROOFS. Step 0 (R60), and what edges do to a block that is in BUSY or FAULT (R63, R64, R66, R113). -/

namespace Sys2Proof.Machine

/-! ## Step 0 -/

/-- The check on each of its three branches, which between them are all pairs of widths. -/
theorem paramCheck_cases (t e : Nat) :
    ((t < 4 ∨ 64 < t) ∧ paramCheck t e = .invalidTotalWidth) ∨
    ((4 ≤ t ∧ t ≤ 64) ∧ (e < 2 ∨ t - 2 < e) ∧ paramCheck t e = .invalidExponentWidth) ∨
    (LegalParams t e ∧ paramCheck t e = .noFault) := by
  by_cases ht : t < 4 ∨ 64 < t
  · exact .inl ⟨ht, if_pos ht⟩
  · by_cases he : e < 2 ∨ t - 2 < e
    · exact .inr (.inl ⟨by omega, he, by rw [paramCheck, if_neg ht, if_pos he]⟩)
    · have hl : LegalParams t e := by omega
      exact .inr (.inr ⟨hl, paramCheck_eq_noFault hl⟩)

/-- Settles O12: the conditions of the three branches exclude one another. -/
theorem parameterCheckOrder : Obligations.ParameterCheckOrder := by
  intro t e
  rcases paramCheck_cases t e with ⟨_, hc⟩ | ⟨_, _, hc⟩ | ⟨_, hc⟩ <;> rw [hc] <;>
    simp only [reduceCtorEq, true_iff, false_iff] <;> omega

/-! ## Single edges -/

/-- An edge leaves the host's coming moves. -/
theorem clockEdge_keeps_host (p : InPorts) (s : State) : (clockEdge p s).host = s.host := by
  have h : clockEdge p s = { clockEdge p s with host := s.host } := clockEdge_host p s s.host
  rw [h]

section

variable {p : InPorts} {s : State} (hrst : p.rst = false)

include hrst

/-- Without a request an edge leaves a ready block (R63). -/
theorem clockEdge_of_ready_of_not_start (hs : s.Ready) (hstart : p.start = false) :
    clockEdge p s = s := by
  rcases hs with hs | hs <;> simp [clockEdge, hrst, hstart, hs]

/-- In BUSY an edge is the converter's own, whatever else the ports carry (R63; log 8). -/
theorem clockEdge_of_busy (hs : s.status = .busy) : clockEdge p s = converterEdge s := by
  simp [clockEdge, hrst, hs]

/-- A fault is left by reset only (R113). -/
theorem clockEdge_of_fault (hs : s.status = .fault) : clockEdge p s = s := by
  simp [clockEdge, hrst, hs]

end

/-- While cycles are left, an edge counts one down. -/
theorem converterEdge_of_succ {s : State} {r : Word} {n : Nat} (hl : latchedResult s = some r)
    (hn : s.cyclesLeft = n + 1) : converterEdge s = { s with cyclesLeft := n } := by
  simp [converterEdge, hl, hn]

/-- When no cycle is left, an edge completes the request (R64). -/
theorem converterEdge_of_zero {s : State} {r : Word} (hl : latchedResult s = some r)
    (hn : s.cyclesLeft = 0) : converterEdge s = publish r s := by
  simp [converterEdge, hl, hn]

/-- In BUSY the wait gives the same whether or not an edge of the converter came before it: `LATENCY`
does not show (R64). -/
theorem awaitConverter_converterEdge {s : State} (hs : s.status = .busy) :
    awaitConverter (converterEdge s) = awaitConverter s := by
  rcases converterEdge_cases s with ⟨-, h⟩ | ⟨r, hl, -, h⟩ | ⟨r, n, hl, -, h⟩ <;> rw [h]
  · rw [awaitConverter_of_some hs hl, awaitConverter_of_ne_busy (by simp)]
  · rw [awaitConverter_of_some hs hl, awaitConverter_of_some (s := { s with cyclesLeft := n }) hs hl]
    rfl

/-! ## States that only a reset changes -/

/-- In FAULT, or in BUSY with a request that has no result (R66, R113). -/
def State.HoldsUntilReset (s : State) : Prop :=
  s.status = .fault ∨ (s.status = .busy ∧ latchedResult s = none)

/-- The host's coming moves play no part in it. -/
theorem State.HoldsUntilReset.setHost {s : State} (hs : s.HoldsUntilReset)
    (moves : List HostMove) : { s with host := moves }.HoldsUntilReset :=
  hs

/-- An edge without reset leaves such a state. -/
theorem State.HoldsUntilReset.clockEdge_eq {s : State} (hs : s.HoldsUntilReset) {p : InPorts}
    (hrst : p.rst = false) : clockEdge p s = s := by
  rcases hs with hs | ⟨hs, hl⟩
  · exact clockEdge_of_fault hrst hs
  · rw [clockEdge_of_busy hrst hs, converterEdge, hl]

/-- So does the wait for the converter. -/
theorem State.HoldsUntilReset.awaitConverter_eq {s : State} (hs : s.HoldsUntilReset) :
    awaitConverter s = s := by
  rcases hs with hs | ⟨-, hl⟩
  · exact awaitConverter_of_ne_busy (by simp [hs])
  · exact awaitConverter_of_none hl

/-- A step without reset takes the host's move from such a state and does nothing else: an edge and a
request alike. -/
theorem State.HoldsUntilReset.step_eq {s : State} (hs : s.HoldsUntilReset)
    (hm : ∀ mv ∈ s.host, mv.noReset = true) : step s = .next { s with host := s.host.tail } := by
  rcases hh : s.host with _ | ⟨p | req, rest⟩
  · rw [(stepTakesClockEdge s idlePorts []).2 hh, hs.clockEdge_eq rfl, List.tail_nil, ← hh]
  · have hrst : p.rst = false := by simpa [hh, HostMove.noReset] using hm (.edge p)
    rw [(stepTakesClockEdge s p rest).1 hh, (hs.setHost rest).clockEdge_eq hrst, List.tail_cons]
  · obtain ⟨p, hrst, -, -, hstep⟩ := step_request hh
    rw [hstep, (hs.setHost rest).clockEdge_eq hrst, (hs.setHost rest).awaitConverter_eq,
      List.tail_cons]

/-- Settles O44: by induction on the number of steps, each of which takes one move. -/
theorem faultAndStuckHoldUntilReset : Obligations.FaultAndStuckHoldUntilReset := by
  intro s k hs hm
  induction k generalizing s with
  | zero => rfl
  | succ k ih =>
    rw [runSteps_succ (State.HoldsUntilReset.step_eq hs hm),
      ih { s with host := s.host.tail } hs fun mv hmv => hm mv (List.mem_of_mem_tail hmv)]
    simp only [List.drop_tail]

/-! ## Requests -/

/-- CONVERT with widths that fit their ports: an edge that presents it, and then the wait. -/
theorem exec_of_fits {v : Word} {t e : Int} (ht : fitsPort t = true) (he : fitsPort e = true)
    (s : State) :
    exec (.convert v t e) s = .next (awaitConverter (clockEdge (presentPorts v t e) s)) := by
  simp [exec, execConvert, ht, he]

/-- Settles O17: in BUSY with a result the presenting edge is one of the converter's own, and the wait ends
with the completion all the same. -/
theorem requestWhileNotReadyIsLost : Obligations.RequestWhileNotReadyIsLost := by
  intro s v t e ht he
  rw [exec_of_fits (fitsPort_natCast ht) (fitsPort_natCast he)]
  have hold (hs : s.HoldsUntilReset) :
      awaitConverter (clockEdge (presentPorts v t e) s) = s := by
    rw [hs.clockEdge_eq rfl, hs.awaitConverter_eq]
  refine ⟨fun hs => by rw [hold (.inl hs)], fun hs hl => by rw [hold (.inr ⟨hs, hl⟩)],
    fun r hs hl => ?_⟩
  rw [clockEdge_of_busy rfl hs, awaitConverter_converterEdge hs, awaitConverter_of_some hs hl]
  rfl

/-- Settles O37: what `clockEdge` does in each status, by the lemmas above. -/
theorem requestEdge : Obligations.RequestEdge := by
  intro s p rest hrst
  simp only [step_edge]
  refine ⟨fun hs hstart hl => ?_, fun hs hstart hl => ?_, fun hs hstart => ?_, fun hs => ?_,
    fun hs => ?_⟩
  · rw [clockEdge_of_ready hs hrst hstart, present_of_legal hl]
    exact ⟨_, rfl, rfl, rfl, rfl, rfl, rfl, rfl, rfl⟩
  · rw [clockEdge_of_ready hs hrst hstart, present_of_illegal hl]
    rfl
  · rw [clockEdge_of_ready_of_not_start hrst hs hstart]
  · rw [clockEdge_of_fault hrst hs]
  · rw [clockEdge_of_busy hrst hs, clockEdge_of_busy rfl hs]

/-! ## Runs of edges -/

/-- A run whose first move is an edge. -/
theorem runSteps_edge (k : Nat) (s : State) (p : InPorts) (moves : List HostMove) :
    runSteps (k + 1) { s with host := .edge p :: moves } =
      runSteps k { clockEdge p s with host := moves } :=
  runSteps_succ (step_edge s p moves)

section

variable {r : Word} (moves : List HostMove)

/-- Edges in BUSY are counted down while cycles are left, and change nothing else. -/
theorem runSteps_countdown (ps : List InPorts) (hps : ∀ p ∈ ps, p.rst = false) {s : State} {n : Nat}
    (hs : s.status = .busy) (hl : latchedResult s = some r) (hn : s.cyclesLeft = ps.length + n) :
    runSteps ps.length { s with host := ps.map .edge ++ moves } =
      .next { s with cyclesLeft := n, host := moves } := by
  induction ps generalizing s with
  | nil =>
    obtain rfl : s.cyclesLeft = n := hn.trans (Nat.zero_add n)
    rfl
  | cons p ps ih =>
    obtain ⟨hp, hps⟩ := List.forall_mem_cons.mp hps
    have hn : s.cyclesLeft = (ps.length + n) + 1 := by rw [hn, List.length_cons]; omega
    rw [List.length_cons, List.map_cons, List.cons_append, runSteps_edge, clockEdge_of_busy hp hs,
      converterEdge_of_succ hl hn]
    exact ih hps (s := { s with cyclesLeft := ps.length + n }) hs hl rfl

/-- The edge after the last cycle completes the request (R64). -/
theorem runSteps_completion (ps : List InPorts) (hps : ∀ p ∈ ps, p.rst = false) {s : State}
    (hs : s.status = .busy) (hl : latchedResult s = some r) (hn : ps.length = s.cyclesLeft + 1) :
    runSteps ps.length { s with host := ps.map .edge ++ moves } =
      .next { publish r s with host := moves } := by
  induction ps generalizing s with
  | nil => cases hn
  | cons p ps ih =>
    obtain ⟨hp, hps⟩ := List.forall_mem_cons.mp hps
    rw [List.length_cons, Nat.add_right_cancel_iff] at hn
    rw [List.length_cons, List.map_cons, List.cons_append, runSteps_edge, clockEdge_of_busy hp hs]
    cases ps with
    | nil => rw [converterEdge_of_zero hl hn.symm]; rfl
    | cons q qs =>
      rw [converterEdge_of_succ hl hn.symm]
      exact ih hps (s := { s with cyclesLeft := qs.length }) hs hl rfl

end

/-- Settles O38. -/
theorem busyRequestCompletes : Obligations.BusyRequestCompletes := by
  intro s r ps moves hs hl hps
  exact ⟨fun hn => runSteps_countdown moves ps hps hs hl (by omega),
    fun hn => runSteps_completion moves ps hps hs hl hn⟩

/-- The host's wait is a run of edges on which it does nothing: as many as there are cycles left and one
more when the request completes, none otherwise. -/
theorem exists_runSteps_eq_awaitConverter (s : State) :
    ∃ n, runSteps n { s with host := List.replicate n (.edge idlePorts) ++ s.host } =
      .next (awaitConverter s) := by
  rcases awaitConverter_cases s with ⟨r, hs, hl, h⟩ | ⟨-, h⟩ <;> rw [h]
  · have hrun := runSteps_completion s.host (List.replicate (s.cyclesLeft + 1) idlePorts)
      (fun p hp => by rw [List.eq_of_mem_replicate hp]; rfl) hs hl List.length_replicate
    rw [List.map_replicate, List.length_replicate] at hrun
    exact ⟨s.cyclesLeft + 1, hrun⟩
  · exact ⟨0, rfl⟩

/-- Settles O39: the presenting edge, and then the run that the wait stands for. -/
theorem transactionIsClockedRun : Obligations.TransactionIsClockedRun := by
  intro s v t e ht he
  have hhost : (clockEdge (presentPorts v t e) s).host = s.host :=
    clockEdge_keeps_host (presentPorts v t e) s
  obtain ⟨n, hrun⟩ := exists_runSteps_eq_awaitConverter (clockEdge (presentPorts v t e) s)
  rw [hhost] at hrun
  exact ⟨n, by rw [runSteps_edge, hrun, exec_of_fits ht he]⟩

end Sys2Proof.Machine
end

section
/-! PROOFS. The layout of a result (R39, R106): its bits, its fields, and what each write of the procedure
makes of it (R74 to R77, R95, R96, R100, R101, R103). -/

namespace Sys2Proof.Machine

/-! ## Bounds -/

/-- A vector below `2^n` has no bit at or above `n`. -/
theorem getLsbD_eq_false_of_toNat_lt {x : Word} {n i : Nat} (hx : x.toNat < 2 ^ n) (hi : n ≤ i) :
    x.getLsbD i = false :=
  Nat.testBit_lt_two_pow (hx.trans_le (Nat.pow_le_pow_right Nat.two_pos hi))

/-- `ones n` is the number `2^n - 1`, for every `n` a container holds. -/
theorem toNat_ones {n : Nat} (hn : n ≤ 64) : (ones n).toNat = 2 ^ n - 1 := by
  have hlt : 2 ^ n - 1 < 2 ^ 64 :=
    (Nat.sub_lt Nat.one_le_two_pow Nat.one_pos).trans_le (Nat.pow_le_pow_right Nat.two_pos hn)
  rw [ones, BitVec.toNat_ofNat, Nat.mod_eq_of_lt hlt]

/-- Masking changes nothing below the mask. -/
theorem and_ones_of_toNat_lt {x : Word} {n : Nat} (hx : x.toNat < 2 ^ n) : x &&& ones n = x := by
  refine BitVec.eq_of_getLsbD_eq fun i hi => ?_
  rw [BitVec.getLsbD_and, getLsbD_ones]
  by_cases hin : i < n
  · simp [hi, hin]
  · simp [getLsbD_eq_false_of_toNat_lt hx (Nat.le_of_not_lt hin)]

/-- What is masked lies below the mask. -/
theorem toNat_and_ones_lt (x : Word) {n : Nat} (hn : n ≤ 64) : (x &&& ones n).toNat < 2 ^ n := by
  rw [BitVec.toNat_and, toNat_ones hn]
  exact Nat.and_lt_two_pow _ (Nat.sub_lt (Nat.two_pow_pos n) Nat.one_pos)

/-- One bit lies below every bound above its position. -/
theorem toNat_one_shiftLeft_lt {k n : Nat} (hk : k < n) : (1#64 <<< k).toNat < 2 ^ n := by
  rw [BitVec.toNat_shiftLeft, Nat.shiftLeft_eq]
  simp only [BitVec.toNat_ofNat, Nat.reducePow, Nat.reduceMod, Nat.one_mul]
  exact (Nat.mod_le _ _).trans_lt (Nat.pow_lt_pow_right Nat.one_lt_two hk)

/-- The mask of the whole container masks nothing. -/
theorem ones_64_and (x : Word) : ones 64 &&& x = x := by
  rw [BitVec.and_comm, and_ones_of_toNat_lt x.isLt]

/-- The three parts of a result each lie below the width of their field. -/
structure FieldsFit (t e : Nat) (s x m : Word) : Prop where
  sign : s.toNat < 2 ^ 1
  exponent : x.toNat < 2 ^ e
  mantissa : m.toNat < 2 ^ fmb t e

/-! ## Bits and fields -/

section

variable {t e : Nat} (hl : LegalParams t e) {s x m : Word}

include hl

/-- The bits of a result: mantissa field, exponent field, sign, and zeros above them (R39, R69). -/
theorem getLsbD_packed (hf : FieldsFit t e s x m) (i : Nat) :
    (packed t e s x m).getLsbD i =
      if i < fmb t e then m.getLsbD i
      else if i < t - 1 then x.getLsbD (i - fmb t e)
      else if i = t - 1 then s.getLsbD 0
      else false := by
  obtain ⟨hs, hx, hm⟩ := hf
  obtain ⟨ht4, ht64, he2, het⟩ := hl
  have hfmb : fmb t e + e = t - 1 := by rw [fmb]; omega
  have hm0 (h : fmb t e ≤ i) : m.getLsbD i = false := getLsbD_eq_false_of_toNat_lt hm h
  have hx0 (h : e ≤ i - fmb t e) : x.getLsbD (i - fmb t e) = false :=
    getLsbD_eq_false_of_toNat_lt hx h
  have hs0 (h : 1 ≤ i - (t - 1)) : s.getLsbD (i - (t - 1)) = false :=
    getLsbD_eq_false_of_toNat_lt hs h
  rw [packed, ← fmb]
  simp only [BitVec.getLsbD_or, BitVec.getLsbD_shiftLeft]
  by_cases h1 : i < fmb t e
  · simp [h1, show i < t - 1 by omega]
  rw [hm0 (by omega), if_neg h1]
  by_cases h2 : i < t - 1
  · simp [h1, h2, show i < 64 by omega]
  rw [hx0 (by omega), if_neg h2]
  by_cases h3 : i = t - 1
  · simp [h3, show t - 1 < 64 by omega]
  · rw [hs0 (by omega), if_neg h3]
    simp

/-- The sign bit of a result. -/
theorem getLsbD_packed_sign (hf : FieldsFit t e s x m) :
    (packed t e s x m).getLsbD (t - 1) = s.getLsbD 0 := by
  have hfmb : ¬ t - 1 < fmb t e := by rw [fmb]; omega
  rw [getLsbD_packed hl hf, if_neg hfmb, if_neg (Nat.lt_irrefl _), if_pos rfl]

/-- The bits above the sign. -/
theorem getLsbD_packed_high (hf : FieldsFit t e s x m) {i : Nat} (hi : t ≤ i) :
    (packed t e s x m).getLsbD i = false := by
  have hfmb : ¬ i < fmb t e := by rw [fmb]; omega
  rw [getLsbD_packed hl hf, if_neg hfmb, if_neg (by omega), if_neg (by omega)]

/-- The exponent field of a result. -/
theorem expField_packed (hf : FieldsFit t e s x m) : expField t e (packed t e s x m) = x.toNat := by
  have hfmb : fmb t e + e = t - 1 := by rw [fmb]; omega
  refine Nat.eq_of_testBit_eq fun i => ?_
  rw [expField, ← fmb, Nat.testBit_mod_two_pow, BitVec.testBit_toNat, BitVec.testBit_toNat,
    BitVec.getLsbD_ushiftRight, getLsbD_packed hl hf]
  by_cases hi : i < e
  · simp [hi, show fmb t e + i < t - 1 by omega]
  · simp [hi, getLsbD_eq_false_of_toNat_lt hf.exponent (Nat.le_of_not_lt hi)]

/-! ## Writes -/

/-- SIGN, on the container that starts at zero (R62, R74). -/
theorem writeSign_zero (hs : s.toNat < 2 ^ 1) : writeSign t s 0 = packed t e s 0 0 := by
  have hf : FieldsFit t e s 0 0 := ⟨hs, Nat.two_pow_pos _, Nat.two_pow_pos _⟩
  refine BitVec.eq_of_getLsbD_eq fun i _ => ?_
  rw [writeSign, getLsbD_setBit _ _ _ _ (by omega)]
  split_ifs with hi
  · rw [hi, getLsbD_packed_sign hl hf]
  · rw [getLsbD_packed hl hf, if_neg hi]
    simp

/-- A write of the exponent field into a result that has only its sign (R76, R95, R100, R103). -/
theorem writeExp_packed (hs : s.toNat < 2 ^ 1) (x : Word) :
    writeExp t e x (packed t e s 0 0) = packed t e s (x &&& ones e) 0 := by
  have hx : (x &&& ones e).toNat < 2 ^ e := toNat_and_ones_lt x (by omega)
  have hfmb : t - 2 + 1 - e = fmb t e := by rw [fmb]; omega
  refine BitVec.eq_of_getLsbD_eq fun i _ => ?_
  rw [writeExp, getLsbD_setField _ _ _ _ _ (by omega) (by omega), hfmb,
    getLsbD_packed hl ⟨hs, Nat.two_pow_pos _, Nat.two_pow_pos _⟩,
    getLsbD_packed hl ⟨hs, hx, Nat.two_pow_pos _⟩, BitVec.getLsbD_and, getLsbD_ones]
  by_cases h1 : i < fmb t e
  · simp [h1, Nat.not_le.mpr h1]
  by_cases h2 : i < t - 1
  · have h3 : i ≤ t - 2 := by omega
    have h4 : i - fmb t e < 64 ∧ i - fmb t e < e := by omega
    simp [h1, h2, h3, h4, Nat.le_of_not_lt h1]
  · have h3 : ¬ i ≤ t - 2 := by omega
    simp [h2, h3]

/-- A write of the mantissa field into a result that has none yet (R96, R97, R101). -/
theorem setMantissa_packed (hs : s.toNat < 2 ^ 1) (hx : x.toNat < 2 ^ e) (hm : m.toNat < 2 ^ fmb t e) :
    setField (t - e - 2) (fmb t e) m (packed t e s x 0) = packed t e s x m := by
  have hfmb : t - e - 2 + 1 = fmb t e := by rw [fmb]; omega
  refine BitVec.eq_of_getLsbD_eq fun i _ => ?_
  rw [getLsbD_setField _ _ _ _ _ (by omega) (by omega), hfmb,
    getLsbD_packed hl ⟨hs, hx, Nat.two_pow_pos _⟩, getLsbD_packed hl ⟨hs, hx, hm⟩]
  by_cases hi : i < fmb t e
  · have h1 : i ≤ t - e - 2 := by omega
    simp [hi, h1]
  · have h1 : ¬ i ≤ t - e - 2 := by omega
    simp [hi, h1]

/-- The quiet bit of a NaN into a result that has no mantissa yet (R77). -/
theorem setQuietBit_packed (hs : s.toNat < 2 ^ 1) (hx : x.toNat < 2 ^ e) :
    setBit (t - e - 2) true (packed t e s x 0) = packed t e s x (1#64 <<< (t - e - 2)) := by
  have hfmb : t - e - 2 < fmb t e := by rw [fmb]; omega
  refine BitVec.eq_of_getLsbD_eq fun i _ => ?_
  rw [getLsbD_setBit _ _ _ _ (by omega), getLsbD_packed hl ⟨hs, hx, Nat.two_pow_pos _⟩,
    getLsbD_packed hl ⟨hs, hx, toNat_one_shiftLeft_lt hfmb⟩, getLsbD_one_shiftLeft _ _ (by omega)]
  by_cases hi : i = t - e - 2
  · rw [if_pos hi, if_pos (hi ▸ hfmb)]
    simp [hi]
  · simp [hi]

end

end Sys2Proof.Machine
end

section
/-! PROOFS. Step 6 in closed form (R89 to R98): the scan's shifts and the demotion's cancel. -/

namespace Sys2Proof.Machine

/-- SCAN on zero makes test after test (R90). -/
theorem scanLoop_zero (fuel sc : Nat) : scanLoop fuel 0 sc = none := by
  induction fuel generalizing sc with
  | zero => rfl
  | succ fuel ih =>
    rw [scanLoop, if_neg (by simp)]
    exact ih (sc + 1)

section

variable {m : Word} (hm0 : m ≠ 0) (hm : m.toNat < 2 ^ 52)

include hm0 hm

/-- SCAN makes at least one shift: bit 52 of a 52-bit vector is clear. -/
theorem one_le_scan_shifts : 1 ≤ 52 - m.toNat.log2 := by
  have hne : m.toNat ≠ 0 := fun h => hm0 (BitVec.eq_of_toNat_eq h)
  have hlog : m.toNat.log2 < 52 := (Nat.log2_lt hne).mpr hm
  omega

/-- The shifts that bring the leading one of a 52-bit vector to bit 52. -/
theorem normalized_bounds :
    2 ^ 52 ≤ m.toNat * 2 ^ (52 - m.toNat.log2) ∧ m.toNat * 2 ^ (52 - m.toNat.log2) < 2 ^ 53 := by
  have hne : m.toNat ≠ 0 := fun h => hm0 (BitVec.eq_of_toNat_eq h)
  have hk := one_le_scan_shifts hm0 hm
  have hlo := Nat.mul_le_mul_right (2 ^ (52 - m.toNat.log2)) (Nat.log2_self_le hne)
  have hhi := Nat.mul_lt_mul_of_pos_right (Nat.lt_log2_self (n := m.toNat))
    (Nat.two_pow_pos (52 - m.toNat.log2))
  rw [← Nat.pow_add] at hlo hhi
  rw [show m.toNat.log2 + (52 - m.toNat.log2) = 52 by omega] at hlo
  rw [show m.toNat.log2 + 1 + (52 - m.toNat.log2) = 53 by omega] at hhi
  exact ⟨hlo, hhi⟩

/-- SCAN makes exactly those shifts (R89). -/
theorem scan_eq : scan m = some (m <<< (52 - m.toNat.log2), 52 - m.toNat.log2) := by
  obtain ⟨hlo, hhi⟩ := normalized_bounds hm0 hm
  rw [scan, scanLoop_eq 53 m 0 _ hm0 (by omega) hlo hhi (by omega), Nat.zero_add]

/-- The scan's left shifts lose no bit (R89). -/
theorem toNat_normalized :
    (m <<< (52 - m.toNat.log2)).toNat = m.toNat * 2 ^ (52 - m.toNat.log2) := by
  obtain ⟨-, hhi⟩ := normalized_bounds hm0 hm
  rw [BitVec.toNat_shiftLeft, Nat.shiftLeft_eq, Nat.mod_eq_of_lt (hhi.trans (by decide))]

/-- Bit 52 is set after the scan, so ORing it in changes nothing (R94). -/
theorem normalized_or_bit52 :
    m <<< (52 - m.toNat.log2) ||| 1#64 <<< 52 = m <<< (52 - m.toNat.log2) := by
  obtain ⟨hlo, hhi⟩ := normalized_bounds hm0 hm
  rw [← toNat_normalized hm0 hm] at hlo hhi
  refine BitVec.eq_of_getLsbD_eq fun i _ => ?_
  rw [BitVec.getLsbD_or, getLsbD_one_shiftLeft _ _ (by decide)]
  by_cases hi : i = 52
  · rw [hi, getLsbD_52 hhi, decide_eq_true hlo]
    rfl
  · rw [decide_eq_false hi, Bool.or_false]

/-- As many right shifts undo the scan's left shifts. -/
theorem normalized_ushiftRight : m <<< (52 - m.toNat.log2) >>> (52 - m.toNat.log2) = m := by
  refine BitVec.eq_of_toNat_eq ?_
  rw [BitVec.toNat_ushiftRight, toNat_normalized hm0 hm, Nat.shiftRight_eq_div_pow,
    Nat.mul_div_cancel _ (Nat.two_pow_pos _)]

/-- BIASADJ, the mux and DEMOTE after the scan: the stored vector shifted right by `-bias` (R98). -/
theorem boundaryOrDemote_normalized {bias : Int} (hb : bias ≤ 0) :
    boundaryOrDemote (m <<< (52 - m.toNat.log2)) (bias - (52 - m.toNat.log2 : Nat)) =
      (m >>> (-bias).toNat, 0) := by
  have hk := one_le_scan_shifts hm0 hm
  have hn : (-(bias - (52 - m.toNat.log2 : Nat))).toNat = (52 - m.toNat.log2) + (-bias).toNat := by
    omega
  rw [boundaryOrDemote, if_neg (by omega), demote, demoteLoop_eq _ _ _ (by omega),
    normalized_or_bit52 hm0 hm, hn, BitVec.shiftRight_add, normalized_ushiftRight hm0 hm]

/-- The SUBNORMAL path on a vector that is not 0 (R98). -/
theorem subnormalPath_of_ne_zero {t e : Nat} {bias : Int} (hb : bias ≤ 0) (r : Word) :
    subnormalPath t e m bias r =
      some (writeMantissa t e (m >>> (-bias).toNat) (writeExp t e 0 r)) := by
  rw [subnormalPath, scan_eq hm0 hm]
  simp only [boundaryOrDemote_normalized hm0 hm hb]
  rfl

end

/-- The SUBNORMAL path on a vector that is 0: no result (R90). -/
theorem subnormalPath_zero (t e : Nat) (bias : Int) (r : Word) :
    subnormalPath t e 0 bias r = none := by
  rw [subnormalPath, scan, scanLoop_zero]

end Sys2Proof.Machine
end

section
/-! PROOFS. The procedure against the branch table (R61, R72, R106), row by row. -/

namespace Sys2Proof.Machine

/-! ## The parts of the input -/

/-- The sign is one bit. -/
theorem toNat_signOf_lt (v : Word) : (signOf v).toNat < 2 ^ 1 := by
  rw [signOf, BitVec.toNat_setWidth_of_le (by decide)]
  exact (v.extractLsb' 63 1).isLt

/-- The stored mantissa is below `2^52`. -/
theorem toNat_manOf_lt (v : Word) : (manOf v).toNat < 2 ^ 52 := by
  rw [manOf, BitVec.toNat_setWidth_of_le (by decide)]
  exact (v.extractLsb' 0 52).isLt

/-- The stored exponent is below `2^11`. -/
theorem expOf_lt (v : Word) : expOf v < 2 ^ 11 :=
  (v.extractLsb' 52 11).isLt

/-- DECOMPOSE reads the three raw fields (R73). -/
theorem decompose_eq (v : Word) :
    decompose v = ⟨signOf v, (v.extractLsb' 52 11).setWidth 64, manOf v⟩ := by
  simp only [decompose, getField_eq_extractLsb']

theorem decompose_s (v : Word) : (decompose v).s = signOf v :=
  congrArg Fields.s (decompose_eq v)

theorem decompose_m (v : Word) : (decompose v).m = manOf v :=
  congrArg Fields.m (decompose_eq v)

/-- The exponent of DECOMPOSE, as a number. -/
theorem toNat_decompose_e (v : Word) : (decompose v).e.toNat = expOf v := by
  rw [decompose_eq]
  exact BitVec.toNat_setWidth_of_le (by decide)

/-- The test for a zero exponent (R75). -/
theorem decompose_e_eq_zero_iff (v : Word) : (decompose v).e = 0 ↔ expOf v = 0 := by
  rw [BitVec.toNat_eq, toNat_decompose_e]
  rfl

/-- The test for an exponent of all ones (R76). -/
theorem decompose_e_eq_ones_iff (v : Word) : (decompose v).e = 0x7FF ↔ expOf v = 0x7FF := by
  rw [BitVec.toNat_eq, toNat_decompose_e]
  rfl

/-- REBIAS is the bias of the table (R81). -/
theorem rebias_decompose (v : Word) (e : Nat) : rebias (decompose v).e e = bias0 v e := by
  rw [rebias, toNat_decompose_e]
  rfl

/-- An input that is neither a zero nor an infinity nor a NaN. -/
def FiniteNonzero (v : Word) : Prop := ¬ (expOf v = 0 ∧ manOf v = 0) ∧ expOf v ≠ 0x7FF

/-- The rows of the branch table (R72), by their conditions. -/
inductive TableRow (v : Word) (e : Nat) : Prop where
  | zero (hE : expOf v = 0) (hM : manOf v = 0)
  | infinity (hE : expOf v = 0x7FF) (hM : manOf v = 0)
  | nan (hE : expOf v = 0x7FF) (hM : manOf v ≠ 0)
  | hang (hv : FiniteNonzero v) (hb : bias0 v e ≤ 0) (hM : manOf v = 0)
  | subnormal (hv : FiniteNonzero v) (hb : bias0 v e ≤ 0) (hM : manOf v ≠ 0)
  | normal (hv : FiniteNonzero v) (hpos : 0 < bias0 v e) (hb : bias0 v e < 2 ^ e - 1)
  | overflow (hv : FiniteNonzero v) (hpos : 0 < bias0 v e) (hb : 2 ^ e - 1 ≤ bias0 v e)

/-- Every input is in a row. -/
theorem tableRow (v : Word) (e : Nat) : TableRow v e := by
  by_cases hz : expOf v = 0 ∧ manOf v = 0
  · exact .zero hz.1 hz.2
  by_cases hE : expOf v = 0x7FF
  · by_cases hM : manOf v = 0
    · exact .infinity hE hM
    · exact .nan hE hM
  have hv : FiniteNonzero v := ⟨hz, hE⟩
  rcases le_or_gt (bias0 v e) 0 with hb | hpos
  · by_cases hM : manOf v = 0
    · exact .hang hv hb hM
    · exact .subnormal hv hb hM
  · rcases lt_or_ge (bias0 v e) (2 ^ e - 1) with hb | hb
    · exact .normal hv hpos hb
    · exact .overflow hv hpos hb

/-! ## The table, row by row (R72) -/

section

variable {v : Word} (t : Nat) {e : Nat}

theorem branchTable_of_zero (hE : expOf v = 0) (hM : manOf v = 0) :
    branchTable v t e = some (packed t e (signOf v) 0 0) := by
  rw [branchTable, if_pos ⟨hE, hM⟩]

theorem branchTable_of_infinity (hE : expOf v = 0x7FF) (hM : manOf v = 0) :
    branchTable v t e = some (packed t e (signOf v) (ones e) 0) := by
  rw [branchTable, if_neg (by omega), if_pos ⟨hE, hM⟩]

theorem branchTable_of_nan (hE : expOf v = 0x7FF) (hM : manOf v ≠ 0) :
    branchTable v t e = some (packed t e (signOf v) (ones e) (1#64 <<< (t - e - 2))) := by
  rw [branchTable, if_neg (by omega), if_neg (fun h => hM h.2), if_pos hE]

/-- A finite non-zero input is in none of the first three rows. -/
theorem branchTable_of_finite (hv : FiniteNonzero v) :
    branchTable v t e =
      if bias0 v e ≤ 0 ∧ manOf v = 0 then none
      else if bias0 v e ≤ 0 then
        some (packed t e (signOf v) 0 (tableMantissa t e (manOf v >>> (-bias0 v e).toNat)))
      else if bias0 v e < 2 ^ e - 1 then
        some (packed t e (signOf v) (BitVec.ofNat 64 (bias0 v e).toNat)
          (tableMantissa t e (manOf v)))
      else some (packed t e (signOf v) (ones e) 0) := by
  rw [branchTable, if_neg hv.1, if_neg (fun h => hv.2 h.1), if_neg hv.2]

variable (hv : FiniteNonzero v)

include hv

theorem branchTable_of_hang (hb : bias0 v e ≤ 0) (hM : manOf v = 0) : branchTable v t e = none := by
  rw [branchTable_of_finite t hv, if_pos ⟨hb, hM⟩]

theorem branchTable_of_subnormal (hb : bias0 v e ≤ 0) (hM : manOf v ≠ 0) :
    branchTable v t e =
      some (packed t e (signOf v) 0 (tableMantissa t e (manOf v >>> (-bias0 v e).toNat))) := by
  rw [branchTable_of_finite t hv, if_neg (fun h => hM h.2), if_pos hb]

theorem branchTable_of_normal (hpos : 0 < bias0 v e) (hb : bias0 v e < 2 ^ e - 1) :
    branchTable v t e = some (packed t e (signOf v) (BitVec.ofNat 64 (bias0 v e).toNat)
      (tableMantissa t e (manOf v))) := by
  rw [branchTable_of_finite t hv, if_neg (fun h => not_le.mpr hpos h.1), if_neg (not_le.mpr hpos),
    if_pos hb]

theorem branchTable_of_overflow (hpos : 0 < bias0 v e) (hb : 2 ^ e - 1 ≤ bias0 v e) :
    branchTable v t e = some (packed t e (signOf v) (ones e) 0) := by
  rw [branchTable_of_finite t hv, if_neg (fun h => not_le.mpr hpos h.1), if_neg (not_le.mpr hpos),
    if_neg (not_lt.mpr hb)]

end

/-! ## The procedure, path by path (R61) -/

theorem pathSel_of_le_zero {b : Int} (e : Nat) (hb : b ≤ 0) : pathSel b e = .subnormal :=
  if_pos hb

theorem pathSel_of_between {b : Int} {e : Nat} (hpos : 0 < b) (hb : b < 2 ^ e - 1) :
    pathSel b e = .normal := by
  rw [pathSel, if_neg (not_le.mpr hpos), expOnes, if_pos hb]

theorem pathSel_of_ge {b : Int} {e : Nat} (hpos : 0 < b) (hb : 2 ^ e - 1 ≤ b) :
    pathSel b e = .overflow := by
  rw [pathSel, if_neg (not_le.mpr hpos), expOnes, if_neg (not_lt.mpr hb)]

section

variable {v : Word} (t : Nat) {e : Nat}

theorem convertSteps_of_zero (hE : expOf v = 0) (hM : manOf v = 0) :
    convertSteps v t e = some (writeSign t (signOf v) 0) := by
  rw [convertSteps, if_pos ⟨(decompose_e_eq_zero_iff v).mpr hE, (decompose_m v).trans hM⟩,
    decompose_s]

theorem convertSteps_of_special (hE : expOf v = 0x7FF) :
    convertSteps v t e = some (infNan t e (manOf v) (writeSign t (signOf v) 0)) := by
  have hE0 : (decompose v).e ≠ 0 := by rw [ne_eq, decompose_e_eq_zero_iff]; omega
  rw [convertSteps, if_neg (fun h => hE0 h.1), if_pos ((decompose_e_eq_ones_iff v).mpr hE),
    decompose_s, decompose_m]

variable (hv : FiniteNonzero v)

include hv

/-- A finite non-zero input takes neither of the special-value paths. -/
theorem FiniteNonzero.decompose_tests :
    ¬ ((decompose v).e = 0 ∧ (decompose v).m = 0) ∧ (decompose v).e ≠ 0x7FF := by
  rw [ne_eq, decompose_e_eq_zero_iff, decompose_e_eq_ones_iff, decompose_m]
  exact hv

theorem convertSteps_of_subnormal (hb : bias0 v e ≤ 0) :
    convertSteps v t e =
      subnormalPath t e (manOf v) (bias0 v e) (writeSign t (signOf v) 0) := by
  rw [convertSteps, if_neg hv.decompose_tests.1, if_neg hv.decompose_tests.2, decompose_s,
    decompose_m, rebias_decompose]
  simp only [pathSel_of_le_zero e hb]

theorem convertSteps_of_normal (hpos : 0 < bias0 v e) (hb : bias0 v e < 2 ^ e - 1) :
    convertSteps v t e =
      some (normalPath t e (manOf v) (bias0 v e) (writeSign t (signOf v) 0)) := by
  rw [convertSteps, if_neg hv.decompose_tests.1, if_neg hv.decompose_tests.2, decompose_s,
    decompose_m, rebias_decompose]
  simp only [pathSel_of_between hpos hb]

theorem convertSteps_of_overflow (hpos : 0 < bias0 v e) (hb : 2 ^ e - 1 ≤ bias0 v e) :
    convertSteps v t e = some (overflowPath t e (writeSign t (signOf v) 0)) := by
  rw [convertSteps, if_neg hv.decompose_tests.1, if_neg hv.decompose_tests.2, decompose_s,
    rebias_decompose]
  simp only [pathSel_of_ge hpos hb]

end

/-! ## Bounds of the fields of a row -/

/-- What is shifted right stays below a bound. -/
theorem toNat_ushiftRight_lt {m : Word} {n : Nat} (hm : m.toNat < n) (k : Nat) :
    (m >>> k).toNat < n := by
  rw [BitVec.toNat_ushiftRight]
  exact (Nat.shiftRight_le _ _).trans_lt hm

/-- The aligned mantissa fits its field, wide configurations included (R96, R97). -/
theorem toNat_tableMantissa_lt {t e : Nat} (hl : LegalParams t e) {m : Word}
    (hm : m.toNat < 2 ^ 52) : (tableMantissa t e m).toNat < 2 ^ fmb t e := by
  rw [tableMantissa, ← fmb]
  split_ifs with hf
  · rw [BitVec.toNat_ushiftRight, Nat.shiftRight_eq_div_pow]
    refine Nat.div_lt_of_lt_mul ?_
    rwa [← Nat.pow_add, Nat.sub_add_cancel hf]
  · have hf64 : fmb t e ≤ 64 := by rw [fmb]; omega
    rw [BitVec.toNat_setWidth_of_le hf64]
    exact (Config.wideAlign m (fmb t e)).isLt

/-- The exponent field that `ones` fills. -/
theorem toNat_ones_lt {n : Nat} (hn : n ≤ 64) : (ones n).toNat < 2 ^ n := by
  rw [toNat_ones hn]
  exact Nat.sub_lt (Nat.two_pow_pos n) Nat.one_pos

/-- A bias on the normal path fits the exponent field. -/
theorem toNat_ofNat_bias {e : Nat} (he : e ≤ 62) {b : Int} (hpos : 0 < b) (hb : b < 2 ^ e - 1) :
    (BitVec.ofNat 64 b.toNat).toNat = b.toNat ∧ b.toNat < 2 ^ e := by
  lift b to Nat using hpos.le
  have hlt : b < 2 ^ e := by zify; omega
  refine ⟨?_, hlt⟩
  exact Nat.mod_eq_of_lt (hlt.trans (Nat.pow_lt_pow_right Nat.one_lt_two (by omega)))

section

variable {t e : Nat} (hl : LegalParams t e)

include hl

/-- The two writes of the SUBNORMAL and NORMAL paths: exponent and aligned mantissa (R95, R96, R100, R101). -/
theorem writeMantissa_writeExp_writeSign {s x m : Word} (hs : s.toNat < 2 ^ 1) (hx : x.toNat < 2 ^ e)
    (hm : m.toNat < 2 ^ 52) :
    writeMantissa t e m (writeExp t e x (writeSign t s 0)) =
      packed t e s x (tableMantissa t e m) := by
  rw [writeSign_zero hl hs, writeExp_packed hl hs, and_ones_of_toNat_lt hx]
  exact setMantissa_packed hl hs hx (toNat_tableMantissa_lt hl hm)

/-- The write of an exponent field of all ones (R76, R103). -/
theorem writeExp_ones_writeSign {s : Word} (hs : s.toNat < 2 ^ 1) :
    writeExp t e (ones 64) (writeSign t s 0) = packed t e s (ones e) 0 := by
  rw [writeSign_zero hl hs, writeExp_packed hl hs, ones_64_and]

/-- The procedure gives what the table says, row by row. -/
theorem convertSteps_eq_branchTable (v : Word) : convertSteps v t e = branchTable v t e := by
  have hs := toNat_signOf_lt v
  have hm := toNat_manOf_lt v
  have he : e ≤ 62 := by omega
  cases tableRow v e with
  | zero hE hM => rw [convertSteps_of_zero t hE hM, branchTable_of_zero t hE hM, writeSign_zero hl hs]
  | infinity hE hM =>
    rw [convertSteps_of_special t hE, branchTable_of_infinity t hE hM, infNan, if_pos hM,
      writeExp_ones_writeSign hl hs]
  | nan hE hM =>
    rw [convertSteps_of_special t hE, branchTable_of_nan t hE hM, infNan, if_neg hM,
      writeExp_ones_writeSign hl hs, setQuietBit_packed hl hs (toNat_ones_lt (by omega))]
  | hang hv hb hM =>
    rw [convertSteps_of_subnormal t hv hb, branchTable_of_hang t hv hb hM, hM, subnormalPath_zero]
  | subnormal hv hb hM =>
    rw [convertSteps_of_subnormal t hv hb, branchTable_of_subnormal t hv hb hM,
      subnormalPath_of_ne_zero hM hm hb,
      writeMantissa_writeExp_writeSign hl hs (x := 0) (Nat.two_pow_pos e) (toNat_ushiftRight_lt hm _)]
  | normal hv hpos hb =>
    obtain ⟨hx, hlt⟩ := toNat_ofNat_bias he hpos hb
    rw [convertSteps_of_normal t hv hpos hb, branchTable_of_normal t hv hpos hb, normalPath,
      ← Int.toNat_of_nonneg hpos.le, BitVec.ofInt_natCast, Int.toNat_natCast,
      writeMantissa_writeExp_writeSign hl hs (by rwa [hx]) hm]
  | overflow hv hpos hb =>
    rw [convertSteps_of_overflow t hv hpos hb, branchTable_of_overflow t hv hpos hb, overflowPath,
      writeExp_ones_writeSign hl hs]

end

/-- Settles O19: legal widths pass step 0, and steps 1 to 9 are the table. -/
theorem procedureIsBranchTable : Obligations.ProcedureIsBranchTable := by
  intro v t e hl
  rw [convert, paramCheck_eq_noFault hl]
  exact convertSteps_eq_branchTable hl v

end Sys2Proof.Machine
end

section
/-! PROOFS. Which requests complete and what their results are, read from the branch table (R66 to R70, R78, R90). -/

namespace Sys2Proof.Machine

/-- CONVERT with legal widths is the table, as an equation to rewrite with. -/
theorem convert_eq_branchTable {t e : Nat} (hl : LegalParams t e) (v : Word) :
    convert v t e = branchTable v t e :=
  procedureIsBranchTable v t e hl

/-! ## The hang set (R90, R126) -/

/-- The host's test for the hang set is the condition of the HANG row. -/
theorem inHangSet_iff {v : Word} {t e : Nat} (hl : LegalParams t e) :
    InHangSet v t e ↔ FiniteNonzero v ∧ bias0 v e ≤ 0 ∧ manOf v = 0 := by
  have hpow : 0 < 2 ^ (e - 1) := Nat.two_pow_pos _
  have hbias : bias0 v e ≤ 0 ↔ (expOf v : Int) ≤ 1024 - 2 ^ (e - 1) := by rw [bias0]; omega
  rw [hbias]
  constructor
  · rintro ⟨-, hM, h1, hE⟩
    have h7 : expOf v ≠ 0x7FF := by zify at hpow ⊢; omega
    exact ⟨⟨fun h => by omega, h7⟩, hE, hM⟩
  · rintro ⟨hv, hE, hM⟩
    exact ⟨hl, hM, Nat.one_le_iff_ne_zero.mpr fun h => hv.1 ⟨h, hM⟩, hE⟩

/-- The table has its HANG row exactly on the hang set. -/
theorem branchTable_eq_none_iff {v : Word} {t e : Nat} (hl : LegalParams t e) :
    branchTable v t e = none ↔ InHangSet v t e := by
  rw [inHangSet_iff hl]
  cases tableRow v e with
  | zero hE hM =>
    rw [branchTable_of_zero t hE hM]
    exact iff_of_false (Option.some_ne_none _) fun ⟨hv, _⟩ => hv.1 ⟨hE, hM⟩
  | infinity hE hM =>
    rw [branchTable_of_infinity t hE hM]
    exact iff_of_false (Option.some_ne_none _) fun ⟨hv, _⟩ => hv.2 hE
  | nan hE hM =>
    rw [branchTable_of_nan t hE hM]
    exact iff_of_false (Option.some_ne_none _) fun ⟨hv, _⟩ => hv.2 hE
  | hang hv hb hM => exact iff_of_true (branchTable_of_hang t hv hb hM) ⟨hv, hb, hM⟩
  | subnormal hv hb hM =>
    rw [branchTable_of_subnormal t hv hb hM]
    exact iff_of_false (Option.some_ne_none _) fun ⟨_, _, hM0⟩ => hM hM0
  | normal hv hpos hb =>
    rw [branchTable_of_normal t hv hpos hb]
    exact iff_of_false (Option.some_ne_none _) fun ⟨_, hb0, _⟩ => not_le.mpr hpos hb0
  | overflow hv hpos hb =>
    rw [branchTable_of_overflow t hv hpos hb]
    exact iff_of_false (Option.some_ne_none _) fun ⟨_, hb0, _⟩ => not_le.mpr hpos hb0

/-- Settles O20: for `expBits ≥ 11` the bound on `E` is below 1. -/
theorem hangSetIsExact : Obligations.HangSetIsExact := by
  intro v t e hl
  refine ⟨by rw [convert_eq_branchTable hl, branchTable_eq_none_iff hl], ?_⟩
  rintro ⟨-, -, h1, hE⟩
  by_contra! he
  have hpow : 2 ^ 10 ≤ 2 ^ (e - 1) := Nat.pow_le_pow_right Nat.two_pos (by omega)
  zify at hpow
  omega

/-- Settles O16: acceptance without a completion. -/
theorem hangRequestStaysBusy : Obligations.HangRequestStaysBusy := by
  intro s v t e hs hh
  have hl : LegalParams t e := hh.1
  have ht : t ≤ 127 := by omega
  have he : e ≤ 127 := by omega
  have hr : convert v t e = none := ((hangSetIsExact v t e hl).1).mpr hh
  refine ⟨_, exec_of_ready_of_none ht he v hs hl hr, rfl, rfl, BitVec.ofInt_natCast _ _,
    BitVec.ofInt_natCast _ _, rfl, rfl, rfl, ?_⟩
  rw [latchedResult_accept_presentPorts ht he, hr]

/-- Settles O15: outside the hang set the table has a result, and CONVERT publishes it. -/
theorem convertCompletesWithTableResult : Obligations.ConvertCompletesWithTableResult := by
  intro s v t e hs hl hh
  have hne : branchTable v t e ≠ none := mt (branchTable_eq_none_iff hl).mp hh
  obtain ⟨r, hr⟩ := Option.ne_none_iff_exists'.mp hne
  refine ⟨r, hr, ?_⟩
  rw [exec_of_ready_of_some (by omega) (by omega) v hs hl ((convert_eq_branchTable hl v).trans hr)]
  simp only [publish, accept, presentPorts, BitVec.ofInt_natCast]

/-! ## Zeros, infinities and NaNs (R70, R78) -/

/-- Settles O24: the first three rows, with the layout of R106 written out. -/
theorem specialValues : Obligations.SpecialValues := by
  intro v t e hl
  rw [convert_eq_branchTable hl]
  refine ⟨fun hE hM => ?_, fun hE hM => ?_, fun hE hM => ?_⟩
  · rw [branchTable_of_zero t hE hM]
    simp [packed]
  · rw [branchTable_of_infinity t hE hM]
    simp [packed, fmb]
  · rw [branchTable_of_nan t hE hM]
    rfl

/-! ## The fields of a result (R67 to R69) -/

/-- An exponent field of all ones, as an integer. -/
theorem cast_two_pow_sub_one (e : Nat) : ((2 ^ e - 1 : Nat) : Int) = 2 ^ e - 1 := by
  rw [Nat.cast_pred (Nat.two_pow_pos e)]
  norm_cast

/-- The exponent field of the row an input is in (R68). -/
def tableExponent (v : Word) (e : Nat) : Nat :=
  if expOf v = 0x7FF then 2 ^ e - 1
  else if expOf v = 0 ∧ manOf v = 0 then 0
  else min (bias0 v e).toNat (2 ^ e - 1)

theorem tableExponent_of_special {v : Word} (e : Nat) (hE : expOf v = 0x7FF) :
    tableExponent v e = 2 ^ e - 1 :=
  if_pos hE

theorem tableExponent_of_zero {v : Word} (e : Nat) (hE : expOf v = 0) (hM : manOf v = 0) :
    tableExponent v e = 0 := by
  rw [tableExponent, if_neg (by omega), if_pos ⟨hE, hM⟩]

theorem tableExponent_of_finite {v : Word} (e : Nat) (hv : FiniteNonzero v) :
    tableExponent v e = min (bias0 v e).toNat (2 ^ e - 1) := by
  rw [tableExponent, if_neg hv.2, if_neg hv.1]

theorem tableExponent_le (v : Word) (e : Nat) : tableExponent v e ≤ 2 ^ e - 1 := by
  rw [tableExponent]
  split_ifs
  · exact le_rfl
  · exact Nat.zero_le _
  · exact min_le_right _ _

/-- Every result is its input's sign, the exponent of its row and a mantissa, packed. -/
theorem branchTable_eq_some {v r : Word} {t e : Nat} (hl : LegalParams t e)
    (h : branchTable v t e = some r) :
    ∃ x m, FieldsFit t e (signOf v) x m ∧ x.toNat = tableExponent v e ∧
      r = packed t e (signOf v) x m := by
  have hs := toNat_signOf_lt v
  have hm := toNat_manOf_lt v
  have hones := toNat_ones (n := e) (by omega)
  have hones_lt := toNat_ones_lt (n := e) (by omega)
  cases tableRow v e with
  | zero hE hM =>
    cases (branchTable_of_zero t hE hM).symm.trans h
    refine ⟨_, _, ⟨hs, Nat.two_pow_pos _, Nat.two_pow_pos _⟩, ?_, rfl⟩
    rw [tableExponent_of_zero e hE hM]
    rfl
  | infinity hE hM =>
    cases (branchTable_of_infinity t hE hM).symm.trans h
    exact ⟨_, _, ⟨hs, hones_lt, Nat.two_pow_pos _⟩,
      hones.trans (tableExponent_of_special e hE).symm, rfl⟩
  | nan hE hM =>
    cases (branchTable_of_nan t hE hM).symm.trans h
    exact ⟨_, _, ⟨hs, hones_lt, toNat_one_shiftLeft_lt (by rw [fmb]; omega)⟩,
      hones.trans (tableExponent_of_special e hE).symm, rfl⟩
  | hang hv hb hM => cases (branchTable_of_hang t hv hb hM).symm.trans h
  | subnormal hv hb hM =>
    cases (branchTable_of_subnormal t hv hb hM).symm.trans h
    refine ⟨_, _, ⟨hs, Nat.two_pow_pos _, toNat_tableMantissa_lt hl (toNat_ushiftRight_lt hm _)⟩,
      ?_, rfl⟩
    rw [tableExponent_of_finite e hv, Int.toNat_of_nonpos hb, Nat.zero_min]
    rfl
  | normal hv hpos hb =>
    cases (branchTable_of_normal t hv hpos hb).symm.trans h
    obtain ⟨hx, hlt⟩ := toNat_ofNat_bias (by omega) hpos hb
    refine ⟨_, _, ⟨hs, by rwa [hx], toNat_tableMantissa_lt hl hm⟩, ?_, rfl⟩
    rw [tableExponent_of_finite e hv, hx, min_eq_left (Nat.le_sub_one_of_lt hlt)]
  | overflow hv hpos hb =>
    cases (branchTable_of_overflow t hv hpos hb).symm.trans h
    refine ⟨_, _, ⟨hs, hones_lt, Nat.two_pow_pos _⟩, ?_, rfl⟩
    have hle : 2 ^ e - 1 ≤ (bias0 v e).toNat := by
      rw [← cast_two_pow_sub_one] at hb
      exact (Int.le_toNat hpos.le).mpr hb
    rw [tableExponent_of_finite e hv, hones, min_eq_right hle]

section

variable {v r : Word} {t e : Nat} (hl : LegalParams t e) (hr : convert v t e = some r)

include hl hr

/-- The sign bit of a result (R67). -/
theorem getLsbD_result_sign : r.getLsbD (t - 1) = (signOf v).getLsbD 0 := by
  rw [convert_eq_branchTable hl] at hr
  obtain ⟨x, m, hf, -, rfl⟩ := branchTable_eq_some hl hr
  exact getLsbD_packed_sign hl hf

/-- The exponent field of a result is that of its input's row (R68). -/
theorem expField_result : expField t e r = tableExponent v e := by
  rw [convert_eq_branchTable hl] at hr
  obtain ⟨x, m, hf, hx, rfl⟩ := branchTable_eq_some hl hr
  rw [expField_packed hl hf, hx]

/-- The bits above the sign of a result (R69). -/
theorem getLsbD_result_high {i : Nat} (hi : t ≤ i) : r.getLsbD i = false := by
  rw [convert_eq_branchTable hl] at hr
  obtain ⟨x, m, hf, -, rfl⟩ := branchTable_eq_some hl hr
  exact getLsbD_packed_high hl hf hi

end

/-- The sign of an input is its bit 63. -/
theorem getLsbD_signOf (v : Word) : (signOf v).getLsbD 0 = v.getLsbD 63 := by
  simp [signOf]

/-- Settles O21. -/
theorem signIsCopied : Obligations.SignIsCopied := by
  intro v r t e hl hr
  rw [getLsbD_result_sign hl hr, getLsbD_signOf]

/-- Settles O23. -/
theorem highBitsAreZero : Obligations.HighBitsAreZero :=
  fun _ _ _ _ hl hr _ hi => getLsbD_result_high hl hr hi

/-- Settles O22: the exponent of the row, on each path. -/
theorem exponentFieldByPath : Obligations.ExponentFieldByPath := by
  intro v r t e hl hr
  rw [expField_result hl hr]
  refine ⟨tableExponent_le v e, fun ⟨hE, hM⟩ => tableExponent_of_zero e hE hM,
    tableExponent_of_special e, fun h7 h0 => ?_⟩
  rw [tableExponent_of_finite e ⟨h0, h7⟩, ← cast_two_pow_sub_one]
  omega

/-! ## Magnitude (R71, R87) -/

/-- The magnitude bits are the exponent and, below it, the mantissa. -/
theorem toNat_mod_eq (v : Word) : v.toNat % 2 ^ 63 = expOf v * 2 ^ 52 + (manOf v).toNat := by
  rw [expOf, manOf, BitVec.toNat_setWidth_of_le (by decide), BitVec.extractLsb'_toNat,
    BitVec.extractLsb'_toNat, Nat.shiftRight_eq_div_pow, Nat.shiftRight_eq_div_pow]
  omega

/-- The exponent of the row grows with the magnitude (R87). -/
theorem tableExponent_mono {v v' : Word} (e : Nat) (h : v.toNat % 2 ^ 63 ≤ v'.toNat % 2 ^ 63) :
    tableExponent v e ≤ tableExponent v' e := by
  have hm := toNat_manOf_lt v
  have hm' := toNat_manOf_lt v'
  rw [toNat_mod_eq, toNat_mod_eq] at h
  have hE : expOf v ≤ expOf v' := by omega
  by_cases h7' : expOf v' = 0x7FF
  · rw [tableExponent_of_special e h7']
    exact tableExponent_le v e
  by_cases h0 : expOf v = 0 ∧ manOf v = 0
  · rw [tableExponent_of_zero e h0.1 h0.2]
    exact Nat.zero_le _
  have h7 : expOf v ≠ 0x7FF := by have := expOf_lt v'; omega
  have h0' : ¬ (expOf v' = 0 ∧ manOf v' = 0) := by
    rintro ⟨hE0, hM0⟩
    refine h0 ⟨by omega, BitVec.eq_of_toNat_eq ?_⟩
    have : (manOf v').toNat = 0 := congrArg BitVec.toNat hM0
    have : (manOf v).toNat = 0 := by omega
    exact this
  rw [tableExponent_of_finite e ⟨h0, h7⟩, tableExponent_of_finite e ⟨h0', h7'⟩]
  have hb : bias0 v e ≤ bias0 v' e := by rw [bias0, bias0]; omega
  exact min_le_min_right _ (Int.toNat_le_toNat hb)

/-- Settles O26. -/
theorem exponentFieldIsMonotone : Obligations.ExponentFieldIsMonotone := by
  intro v v' r r' t e hl hmag hr hr'
  rw [expField_result hl hr, expField_result hl hr']
  exact tableExponent_mono e hmag

end Sys2Proof.Machine
end

section
/-! PROOFS. Truncation (R71, R101), and the identity on the double's own layout (R102). -/

namespace Sys2Proof.Machine

/-! ## Truncation -/

section

variable {v v' : Word} {k : Nat} (h : v >>> k = v' >>> k)

include h

/-- Vectors with the same bits from `k` up agree on a field that lies there. -/
theorem extractLsb'_eq_of_ushiftRight_eq {start : Nat} (hk : k ≤ start) (w : Nat) :
    v.extractLsb' start w = v'.extractLsb' start w := by
  refine BitVec.eq_of_getLsbD_eq fun i _ => ?_
  have hbit := congrArg (BitVec.getLsbD · (start - k + i)) h
  simp only [BitVec.getLsbD_ushiftRight] at hbit
  rw [← Nat.add_assoc, Nat.add_sub_cancel' hk] at hbit
  rw [BitVec.getLsbD_extractLsb', BitVec.getLsbD_extractLsb', hbit]

/-- And on the mantissa from `k` up. -/
theorem manOf_ushiftRight_eq : manOf v >>> k = manOf v' >>> k := by
  refine BitVec.eq_of_getLsbD_eq fun i _ => ?_
  have hbit := congrArg (BitVec.getLsbD · i) h
  simp only [BitVec.getLsbD_ushiftRight] at hbit
  simp only [manOf, BitVec.getLsbD_ushiftRight, BitVec.getLsbD_setWidth,
    BitVec.getLsbD_extractLsb', Nat.zero_add, hbit]

end

/-- Aligning drops the bits below the target precision (R96). -/
theorem tableMantissa_congr {t e : Nat} (hf : fmb t e ≤ 52) {m m' : Word}
    (h : m >>> (52 - fmb t e) = m' >>> (52 - fmb t e)) :
    tableMantissa t e m = tableMantissa t e m' := by
  rw [fmb] at hf h
  rw [tableMantissa, tableMantissa, if_pos hf, if_pos hf, h]

/-- Two right shifts may be made in either order. -/
theorem ushiftRight_right_comm (m : Word) (a b : Nat) : m >>> a >>> b = m >>> b >>> a := by
  rw [← BitVec.shiftRight_add, ← BitVec.shiftRight_add, Nat.add_comm]

/-- A non-zero magnitude short of infinity is a finite non-zero input. -/
theorem FiniteNonzero.of_magnitude {v : Word} (h : v.toNat % 2 ^ 63 ≠ 0) (hE : expOf v ≠ 0x7FF) :
    FiniteNonzero v := by
  refine ⟨fun ⟨hE0, hM⟩ => h ?_, hE⟩
  rw [toNat_mod_eq, hE0, hM]
  rfl

/-- Settles O27: the row is chosen by the exponent, and what it keeps of the mantissa lies above the dropped
bits. -/
theorem lowMantissaBitsAreDropped : Obligations.LowMantissaBitsAreDropped := by
  intro v v' r r' t e hl hf hagree h7 hne hne' hr hr'
  have hS : signOf v = signOf v' := by
    rw [signOf, signOf, extractLsb'_eq_of_ushiftRight_eq hagree (by omega)]
  have hE : expOf v = expOf v' := by
    rw [expOf, expOf, extractLsb'_eq_of_ushiftRight_eq hagree (by omega)]
  have hb : bias0 v e = bias0 v' e := by rw [bias0, bias0, hE]
  have hM := manOf_ushiftRight_eq hagree
  have hM_shifted : manOf v >>> (-bias0 v' e).toNat >>> (52 - fmb t e) =
      manOf v' >>> (-bias0 v' e).toNat >>> (52 - fmb t e) := by
    rw [ushiftRight_right_comm, hM, ushiftRight_right_comm]
  have hv := FiniteNonzero.of_magnitude hne h7
  have hv' := FiniteNonzero.of_magnitude hne' (hE ▸ h7)
  rw [convert_eq_branchTable hl] at hr hr'
  refine Option.some.inj (hr.symm.trans (Eq.trans ?_ hr'))
  rcases le_or_gt (bias0 v e) 0 with hle | hpos
  · have hM0 : manOf v ≠ 0 := fun h0 => by simp [branchTable_of_hang t hv hle h0] at hr
    have hM0' : manOf v' ≠ 0 := fun h0 => by simp [branchTable_of_hang t hv' (hb ▸ hle) h0] at hr'
    rw [branchTable_of_subnormal t hv hle hM0, branchTable_of_subnormal t hv' (hb ▸ hle) hM0', hS, hb,
      tableMantissa_congr hf hM_shifted]
  rcases lt_or_ge (bias0 v e) (2 ^ e - 1) with hlt | hge
  · rw [branchTable_of_normal t hv hpos hlt, branchTable_of_normal t hv' (hb ▸ hpos) (hb ▸ hlt), hS,
      hb, tableMantissa_congr hf hM]
  · rw [branchTable_of_overflow t hv hpos hge,
      branchTable_of_overflow t hv' (hb ▸ hpos) (hb ▸ hge), hS]

/-! ## The layout (64, 11) -/

theorem legalParams_double : LegalParams 64 11 := by decide

/-- The target bias is the double's own, so the exponent is kept (R102). -/
theorem bias0_double (v : Word) : bias0 v 11 = expOf v := by
  rw [bias0]
  omega

/-- The mantissa field is as wide as the stored mantissa. -/
theorem tableMantissa_double (m : Word) : tableMantissa 64 11 m = m :=
  BitVec.ushiftRight_zero m

/-- The exponent of an input as a container is the field it was read from. -/
theorem ofNat_expOf (v : Word) : BitVec.ofNat 64 (expOf v) = (v.extractLsb' 52 11).setWidth 64 :=
  BitVec.ofNat_toNat _ _

/-- The three fields of a double, packed by the layout of (64, 11), are the double. -/
theorem packed_double (v : Word) :
    packed 64 11 (signOf v) (BitVec.ofNat 64 (expOf v)) (manOf v) = v := by
  have hx : (BitVec.ofNat 64 (expOf v)).toNat < 2 ^ 11 :=
    (Nat.mod_le _ _).trans_lt (expOf_lt v)
  have hfmb : fmb 64 11 = 52 := rfl
  refine BitVec.eq_of_getLsbD_eq fun i hi => ?_
  rw [getLsbD_packed legalParams_double ⟨toNat_signOf_lt v, hx, toNat_manOf_lt v⟩, getLsbD_signOf,
    ofNat_expOf, hfmb]
  simp only [manOf, BitVec.getLsbD_setWidth, BitVec.getLsbD_extractLsb']
  by_cases h1 : i < 52
  · simp [h1, hi]
  by_cases h2 : i < 63
  · have h3 : i - 52 < 11 ∧ i - 52 < 64 := by omega
    rw [if_neg h1, if_pos h2]
    simp [h3, Nat.add_sub_cancel' (Nat.le_of_not_lt h1)]
  · rw [if_neg h1, if_neg h2, if_pos (by omega), show i = 63 by omega]

/-- Settles O28: every row but the NaNs' gives the input's own three fields, and the HANG row would need a
zero exponent beside a zero mantissa. -/
theorem doubleLayoutIsIdentity : Obligations.DoubleLayoutIsIdentity := by
  intro v
  rw [convert_eq_branchTable legalParams_double]
  constructor
  · intro hnan
    refine Eq.trans ?_ (congrArg some (packed_double v))
    cases tableRow v 11 with
    | zero hE hM => rw [branchTable_of_zero 64 hE hM, hE, hM]; rfl
    | infinity hE hM => rw [branchTable_of_infinity 64 hE hM, hE, hM]; rfl
    | nan hE hM => exact absurd ⟨hE, hM⟩ hnan
    | hang hv hb hM => rw [bias0_double] at hb; exact absurd ⟨by omega, hM⟩ hv.1
    | subnormal hv hb hM =>
      have hE : expOf v = 0 := by rw [bias0_double] at hb; omega
      rw [branchTable_of_subnormal 64 hv hb hM, tableMantissa_double, bias0_double, hE]
      rfl
    | normal hv hpos hb =>
      rw [branchTable_of_normal 64 hv hpos hb, tableMantissa_double, bias0_double]
      rfl
    | overflow hv hpos hb =>
      rw [bias0_double] at hb
      have hE := expOf_lt v
      exact absurd (by omega) hv.2
  · rintro ⟨hE, hM⟩
    rw [branchTable_of_nan 64 hE hM, packed, BitVec.or_assoc]
    rfl

end Sys2Proof.Machine
end

section
/-! PROOFS. The steps of the function (R73). -/

namespace Sys2Proof.Machine

/-- The exponent of DECOMPOSE, as a container. -/
theorem decompose_e (v : Word) : (decompose v).e = BitVec.ofNat 64 (expOf v) := by
  rw [decompose_eq, ofNat_expOf]

/-- Settles O29: put back at their places, the raw fields are the packed layout of (64, 11). -/
theorem decomposePartitionsTheDouble : Obligations.DecomposePartitionsTheDouble := by
  intro v
  have hpack : packed 64 11 (decompose v).s (decompose v).e (decompose v).m = v := by
    rw [decompose_s, decompose_e, decompose_m, packed_double]
  exact ⟨decompose_s v, toNat_decompose_e v, decompose_m v, hpack.symm⟩

end Sys2Proof.Machine
end

section
/-! PROOFS. Step 5, REBIAS, and PATHSEL: the ranges (R83) and the path each exponent takes (R85). -/

namespace Sys2Proof.Machine

/-! ## The rebias and its ranges (R81, R83) -/

/-- Both constants of step 5 come from `2^(expBits - 1)`, so the bias determines the other (R42, R44). -/
theorem expOnes_eq_two_mul_floatxBias_add_one {e : Nat} (he : 2 ≤ e) :
    expOnes e = 2 * floatxBias e + 1 := by
  rw [expOnes, floatxBias, ← mul_pow_sub_one (by omega : e ≠ 0) 2]
  ring

/-- A wider exponent field has a larger bias. -/
theorem floatxBias_mono {e e' : Nat} (h : e ≤ e') : floatxBias e ≤ floatxBias e' :=
  sub_le_sub_right (pow_le_pow_right₀ one_le_two (Nat.sub_le_sub_right h 1)) 1

/-- The bias is 1 at the narrowest legal exponent field. -/
theorem one_le_floatxBias {e : Nat} (he : 2 ≤ e) : 1 ≤ floatxBias e :=
  floatxBias_mono he

/-- Settles O30: the bias is monotone in `expBits`, so its range is given by `expBits = 2` and
`expBits = 62`; the other two ranges follow from it. -/
theorem rebiasRanges : Obligations.RebiasRanges := by
  rintro v t e ⟨-, ht, he, het⟩ hE
  have hlo : 1 ≤ floatxBias e := one_le_floatxBias he
  have hhi : floatxBias e ≤ 2 ^ 61 - 1 := floatxBias_mono (e' := 62) (by omega)
  rw [rebias, toNat_decompose_e, doubleBias, expOnes_eq_two_mul_floatxBias_add_one he]
  omega

/-! ## The path by the input's exponent (R84, R85) -/

theorem pathSel_eq_subnormal_iff {b : Int} {e : Nat} : pathSel b e = .subnormal ↔ b ≤ 0 := by
  rw [pathSel]
  split_ifs <;> simp [*]

theorem pathSel_eq_normal_iff {b : Int} {e : Nat} :
    pathSel b e = .normal ↔ 0 < b ∧ b < expOnes e := by
  rw [pathSel]
  split_ifs with hle hlt
  · simp [not_lt.mpr hle]
  · simp [not_le.mp hle, hlt]
  · simp [hlt]

theorem pathSel_eq_overflow_iff {b : Int} {e : Nat} :
    pathSel b e = .overflow ↔ 0 < b ∧ expOnes e ≤ b := by
  rw [pathSel]
  split_ifs with hle hlt
  · simp [not_lt.mpr hle]
  · simp [not_le.mpr hlt]
  · simp [not_le.mp hle, not_lt.mp hlt]

/-- `2^(expBits - 1)`, in which the upper thresholds are stated, is one above the bias. -/
theorem cast_two_pow_pred (e : Nat) : ((2 ^ (e - 1) : Nat) : Int) = floatxBias e + 1 := by
  rw [floatxBias, sub_add_cancel]
  norm_cast

section

variable (v : Word) {e : Nat}

theorem pathSel_rebias_eq_subnormal_iff :
    pathSel (rebias (decompose v).e e) e = .subnormal ↔ (expOf v : Int) ≤ 1023 - floatxBias e := by
  rw [pathSel_eq_subnormal_iff, rebias, toNat_decompose_e, doubleBias]
  omega

variable (he : 2 ≤ e)

include he

theorem pathSel_rebias_eq_normal_iff :
    pathSel (rebias (decompose v).e e) e = .normal ↔
      1024 - floatxBias e ≤ (expOf v : Int) ∧ expOf v ≤ 1022 + 2 ^ (e - 1) := by
  have hpow := cast_two_pow_pred e
  rw [pathSel_eq_normal_iff, rebias, toNat_decompose_e, doubleBias,
    expOnes_eq_two_mul_floatxBias_add_one he]
  omega

/-- The test for a positive bias is implied: the all-ones exponent is positive. -/
theorem pathSel_rebias_eq_overflow_iff :
    pathSel (rebias (decompose v).e e) e = .overflow ↔ 1023 + 2 ^ (e - 1) ≤ expOf v := by
  have hpow := cast_two_pow_pred e
  have hpos := one_le_floatxBias he
  rw [pathSel_eq_overflow_iff, rebias, toNat_decompose_e, doubleBias,
    expOnes_eq_two_mul_floatxBias_add_one he]
  omega

end

/-- Settles O31: the thresholds of the first row hold for every legal `expBits`. At `expBits = 11` they are
0 and 2046, so OVERFLOW is out of reach; from `expBits = 12` on the lower one is negative as well. -/
theorem pathByExponent : Obligations.PathByExponent := by
  rintro v t e ⟨-, -, he, -⟩ hE
  have hsub := pathSel_rebias_eq_subnormal_iff v (e := e)
  have hnorm := pathSel_rebias_eq_normal_iff v he
  refine ⟨fun _ => ⟨hsub, hnorm, pathSel_rebias_eq_overflow_iff v he⟩, fun h11 => ?_, fun h12 => ?_⟩
  · have hbias : floatxBias e = 1023 := by rw [h11]; rfl
    have hpow := cast_two_pow_pred e
    rw [hsub, hnorm]
    omega
  · have hbias : 2047 ≤ floatxBias e := floatxBias_mono h12
    have hpow := cast_two_pow_pred e
    rw [hnorm]
    omega

end Sys2Proof.Machine
end

section
/-! PROOFS. Step 6, SUBNORMAL (R89 to R98): the scan of zero, DEMOTE on its own, and the aligned closed form. -/

namespace Sys2Proof.Machine

/-! ## The scan of zero (R90) -/

/-- Settles O33: zero shifted left is zero, so each test of bit 52 fails like the one before it. -/
theorem scanOfZeroNeverEnds : Obligations.ScanOfZeroNeverEnds :=
  scanLoop_zero

/-! ## DEMOTE (R94) -/

/-- DEMOTE spends the whole bias on right shifts of `M` with bit 52 set. -/
theorem demote_eq (m : Word) {bias : Int} (hb : bias ≤ 0) :
    demote m bias = ((m ||| 1#64 <<< 52) >>> (-bias).toNat, 0) := by
  rw [demote, demoteLoop_eq _ _ _ (by omega)]

/-- ORing bit 52 in keeps a 53-bit vector a 53-bit vector. -/
theorem toNat_or_bit52_lt {m : Word} (hm : m.toNat < 2 ^ 53) : (m ||| 1#64 <<< 52).toNat < 2 ^ 53 := by
  rw [BitVec.toNat_or]
  exact Nat.or_lt_two_pow hm (by decide)

/-- A right shift by at least `k` clears the top `k` bits of a `(j + k)`-bit vector. -/
theorem toNat_ushiftRight_lt_two_pow {x : Word} {j k n : Nat} (hx : x.toNat < 2 ^ (j + k))
    (hk : k ≤ n) : (x >>> n).toNat < 2 ^ j := by
  rw [BitVec.toNat_ushiftRight, Nat.shiftRight_eq_div_pow]
  refine Nat.div_lt_of_lt_mul (hx.trans_le ?_)
  rw [← Nat.pow_add]
  exact Nat.pow_le_pow_right (by decide) (by omega)

/-- Settles O35: `M` with bit 52 set has 53 bits, so one shift brings it below bit 52 and 53 shifts empty it. -/
theorem demoteShiftsOutTheBias : Obligations.DemoteShiftsOutTheBias := by
  intro m bias hb hm
  have hor := toNat_or_bit52_lt hm
  rw [demote_eq m hb.le]
  refine ⟨rfl, rfl, toNat_ushiftRight_lt_two_pow (k := 1) hor (by omega), fun h53 => ?_⟩
  have hlt := toNat_ushiftRight_lt_two_pow (j := 0) (k := 53) hor (n := (-bias).toNat) (by omega)
  exact BitVec.eq_of_toNat_eq (Nat.lt_one_iff.mp hlt)

/-! ## MANTALIGN after the demotion (R96, R98) -/

/-- MANTALIGN's right shift adds to the demotion's. -/
theorem alignMantissa_ushiftRight (m : Word) (n : Nat) {f : Nat} (hf : f ≤ 52) :
    alignMantissa (m >>> n) f = m >>> (n + (52 - f)) := by
  rw [alignMantissa, if_pos hf, BitVec.shiftRight_add]

/-- Settles O36: after the scan's shifts are undone, the demotion's `-bias0` shifts and MANTALIGN's
`52 - fmb` remain; this needs no bound on the widths. -/
theorem subnormalClosedForm : Obligations.SubnormalClosedForm := by
  intro m bias t e hm0 hm hb _
  refine ⟨_, _, scan_eq hm0 hm, boundaryOrDemote_normalized hm0 hm hb, fun hf => ?_⟩
  have hshift : (-bias).toNat + (52 - fmb t e) = ((52 : Int) - fmb t e - bias).toNat := by omega
  rw [alignMantissa_ushiftRight m _ hf, hshift]

end Sys2Proof.Machine
end

section
/-! PROOFS. Step 8, OVERFLOW (R103): its threshold, the widths that reach it (R85), and its signed infinity. -/

namespace Sys2Proof.Machine

/-! ## The threshold (R103) -/

/-- PATHSEL's OVERFLOW condition, in `bias0`: this is the threshold of `pathSel_rebias_eq_overflow_iff`. -/
theorem bias0_overflows_iff (v : Word) {e : Nat} (he : 2 ≤ e) :
    0 < bias0 v e ∧ expOnes e ≤ bias0 v e ↔ 1023 + 2 ^ (e - 1) ≤ expOf v := by
  rw [← pathSel_eq_overflow_iff, ← rebias_decompose, pathSel_rebias_eq_overflow_iff v he]

/-- A bias that reaches the all-ones exponent is positive, so the second test alone decides. -/
theorem expOnes_le_bias0_iff (v : Word) {e : Nat} (he : 2 ≤ e) :
    expOnes e ≤ bias0 v e ↔ 1023 + 2 ^ (e - 1) ≤ expOf v := by
  have hpos : 0 < expOnes e := by
    have := one_le_floatxBias he
    rw [expOnes_eq_two_mul_floatxBias_add_one he]
    omega
  rw [← bias0_overflows_iff v he, and_iff_right_of_imp hpos.trans_le]

/-- At `expBits = 11` the threshold is 2047, which no finite input reaches (R85). -/
theorem expBits_le_ten_of_overflow {v : Word} {e : Nat} (hE : expOf v ≤ 2046)
    (hth : 1023 + 2 ^ (e - 1) ≤ expOf v) : e ≤ 10 := by
  have hpow : 2 ^ (e - 1) < 2 ^ 10 := by omega
  have hlt : e - 1 < 10 := (Nat.pow_lt_pow_iff_right Nat.one_lt_two).mp hpow
  omega

/-! ## The infinity of a sign (R103) -/

/-- The double that is the infinity of the sign of `v`. -/
def signedInfinity (v : Word) : Word := signOf v <<< 63 ||| 0x7FF0000000000000

/-- It has the sign it is built from, an exponent of all ones and no mantissa: one check for each sign. -/
theorem signedInfinity_fields (v : Word) :
    signOf (signedInfinity v) = signOf v ∧ expOf (signedInfinity v) = 0x7FF ∧
      manOf (signedInfinity v) = 0 := by
  unfold signedInfinity signOf
  generalize v.extractLsb' 63 1 = b
  revert b
  decide

/-- OVERFLOW and INFNAN write the same word: the two rows of the table give the same fields. -/
theorem convert_eq_signedInfinity_of_overflow {v : Word} {t e : Nat} (hl : LegalParams t e)
    (hE : expOf v ≤ 2046) (hth : 1023 + 2 ^ (e - 1) ≤ expOf v) :
    convert v t e = convert (signedInfinity v) t e := by
  obtain ⟨hsign, hexp, hman⟩ := signedInfinity_fields v
  have hbig : 1023 < expOf v := by
    have := Nat.two_pow_pos (e - 1)
    omega
  have hv : FiniteNonzero v := ⟨fun h => by omega, by omega⟩
  have ⟨_, _, he, _⟩ := hl
  obtain ⟨hpos, hb⟩ := (bias0_overflows_iff v he).mpr hth
  rw [convert_eq_branchTable hl, convert_eq_branchTable hl, branchTable_of_overflow t hv hpos hb,
    branchTable_of_infinity t hexp hman, hsign]

/-- Settles O25: what the infinite input gives is the second clause of O24. -/
theorem overflowIsSignedInfinity : Obligations.OverflowIsSignedInfinity := by
  intro v t e hl hE
  have ⟨_, _, he, _⟩ := hl
  refine ⟨expOnes_le_bias0_iff v he, fun hth => ?_⟩
  obtain ⟨hsign, hexp, hman⟩ := signedInfinity_fields v
  have heq := convert_eq_signedInfinity_of_overflow hl hE hth
  have hinf := (specialValues (signedInfinity v) t e hl).2.1 hexp hman
  rw [hsign] at hinf
  exact ⟨expBits_le_ten_of_overflow hE hth, heq.trans hinf, heq⟩

end Sys2Proof.Machine
end

section
/-! PROOFS. The fault transition taken by CONVERT (R107, R110, R111), and the ports after it. -/

namespace Sys2Proof.Machine

/-- On illegal widths the check tells two causes apart, and `totBits` alone decides which (R107, R110). -/
theorem paramCheck_of_illegal {t e : Nat} (hl : ¬ LegalParams t e) :
    paramCheck t e = if t < 4 ∨ 64 < t then .invalidTotalWidth else .invalidExponentWidth := by
  rcases paramCheck_cases t e with ⟨ht, hc⟩ | ⟨ht, -, hc⟩ | ⟨hl', -⟩
  · rw [hc, if_pos ht]
  · rw [hc, if_neg (by omega)]
  · exact absurd hl' hl

/-- After the fault transition the ports show the fault and its cause beside the old result (R22, R111). -/
theorem outputs_raiseFault (c : Cause) (s : State) :
    outputs (raiseFault c s) =
      { busy := false, done := false, result := s.result, fault := true, faultCause := causeCode c } :=
  rfl

/-- Settles O13: CONVERT ends in the fault transition, with the cause the check gives. -/
theorem illegalParametersFault : Obligations.IllegalParametersFault := by
  intro s v t e hs ht he hl
  refine ⟨_, exec_of_ready_of_illegal ht he v hs hl, ?_, ?_⟩
  · rw [paramCheck_of_illegal hl, raiseFault]
  · rw [outputs_raiseFault, paramCheck_of_illegal hl, apply_ite causeCode, causeCode, causeCode]

end Sys2Proof.Machine
end

section
/-! PROOFS. The reset edge (R121), and what a block out of reset shows (R19, R22, R122). -/

namespace Sys2Proof.Machine

/-- With `rst = 1` an edge is the reset event, whatever the state and the other ports (R121). -/
theorem clockEdge_of_rst {p : InPorts} (hrst : p.rst = true) (s : State) : clockEdge p s = resetEvent s :=
  if_pos hrst

/-- Settles O40: the edge's next state is that of the reset event. -/
theorem resetEdge : Obligations.ResetEdge := by
  intro s p rest hrst
  refine ⟨{ resetEvent s with host := rest }, ?_, resetEvent_status s, resetEvent_cause s,
    resetEvent_result s, rfl⟩
  rw [step_edge, clockEdge_of_rst hrst]

/-- In IDLE with no cause no state output is raised, and `result` shows RESULT (R22). -/
theorem outputs_of_idle {s : State} (hs : s.status = .idle) (hc : s.cause = .noFault) :
    outputs s = { busy := false, done := false, result := s.result, fault := false, faultCause := 0 } := by
  rw [outputs, hs, hc]
  rfl

/-- In IDLE with no cause both fields of the status word are 0 (R19). -/
theorem statusWord_of_idle {s : State} (hs : s.status = .idle) (hc : s.cause = .noFault) :
    statusWord s = 0 := by
  rw [statusWord, hs, hc]
  rfl

/-- Settles O41: the state after reset is in IDLE with no cause, and its RESULT is 0. -/
theorem stateAfterReset : Obligations.StateAfterReset :=
  ⟨rfl, rfl, rfl, outputs_of_idle rfl rfl, statusWord_of_idle rfl rfl⟩

end Sys2Proof.Machine
end

section
/-! PROOFS. SCAN on its own (R89), and the exponent candidate BIASADJ makes from its count (R91, R93). -/

namespace Sys2Proof.Machine

/-! ## SCAN of a 52-bit vector that is not 0 (R89) -/

section

variable {m : Word} (hm0 : m ≠ 0) (hm : m.toNat < 2 ^ 52)

include hm0 hm

/-- Any bound from 53 tests on gives the scan the same result, so the bound is never met (log 6). -/
theorem scanLoop_of_enough_tests (extra : Nat) :
    scanLoop (53 + extra) m 0 = some (m <<< (52 - m.toNat.log2), 52 - m.toNat.log2) := by
  obtain ⟨hlo, hhi⟩ := normalized_bounds hm0 hm
  rw [scanLoop_eq (53 + extra) m 0 _ hm0 (by omega) hlo hhi (by omega), Nat.zero_add]

/-- The scanned vector has its leading one on bit 52. -/
theorem toNat_normalized_bounds :
    2 ^ 52 ≤ (m <<< (52 - m.toNat.log2)).toNat ∧ (m <<< (52 - m.toNat.log2)).toNat < 2 ^ 53 := by
  rw [toNat_normalized hm0 hm]
  exact normalized_bounds hm0 hm

end

/-- Settles O32: the scan shifts by `52 - msb(M)`, and that shift takes the leading one to bit 52. -/
theorem scanFindsTheLeadingOne : Obligations.ScanFindsTheLeadingOne := by
  intro m hm0 hm
  obtain ⟨hlo, hhi⟩ := toNat_normalized_bounds hm0 hm
  exact ⟨_, _, scan_eq hm0 hm, rfl, one_le_scan_shifts hm0 hm, Nat.sub_le _ _,
    toNat_normalized hm0 hm, hlo, hhi, scanLoop_of_enough_tests hm0 hm⟩

/-! ## BIASADJ (R91, R93) -/

/-- A scan that ends was of a vector that is not 0 (R90). -/
theorem ne_zero_of_scan_eq_some {m : Word} {r : Word × Nat} (h : scan m = some r) : m ≠ 0 := by
  rintro rfl
  rw [scan, scanLoop_zero] at h
  cases h

/-- A scan of a 52-bit vector that ends has made between 1 and 52 shifts (R89). -/
theorem scan_shifts_bounds {m m1 : Word} {sc : Nat} (hm : m.toNat < 2 ^ 52)
    (h : scan m = some (m1, sc)) : 1 ≤ sc ∧ sc ≤ 52 := by
  have hm0 := ne_zero_of_scan_eq_some h
  rw [scan_eq hm0 hm] at h
  cases h
  exact ⟨one_le_scan_shifts hm0 hm, Nat.sub_le _ _⟩

/-- Settles O34: BIASADJ takes between 1 and 52 from a value in `[-1022, 0]`. -/
theorem boundaryArmIsUnreachable : Obligations.BoundaryArmIsUnreachable := by
  intro m m1 sc bias hm hscan hlo hhi
  obtain ⟨hsc1, hsc52⟩ := scan_shifts_bounds hm hscan
  constructor <;> omega

end Sys2Proof.Machine
end
